-- ==== Sys2Proof/Word.lean ====
section
/-! DEFINITION. The words of the block (00_scope.md R9): bytes, 32-bit and 64-bit unsigned words. Wrapping
addition, XOR, AND, OR, NOT and the logical shifts of R10 are `BitVec`'s own. -/

namespace Sys2Proof

/-- One byte of host memory (R50). -/
abbrev Byte := BitVec 8

/-- A 32-bit word (R9). -/
abbrev Word32 := BitVec 32

/-- A 64-bit word (R9). -/
abbrev Word64 := BitVec 64

/-- Eight 32-bit words: HashState and DIGEST0..7 (R32, R30). -/
abbrev Words8 := Vector Word32 8

/-- Sixty-four 32-bit words: the MessageSchedule `W` (R34) and the round constants `K` (R87). -/
abbrev Words64 := Vector Word32 64

/-- One 64-byte block of the padded message (R15, R35). -/
abbrev Block := Vector Byte 64

end Sys2Proof
end

