-- ==== Sys2Proof/Syntax.lean ====
section
/-! DEFINITION. The commands of spec/opcode_table.json, one constructor per row (30_encoding.md R72). A command word carries no
operand (R71): its operands are the operand registers at the time of the CMD write. -/

namespace Sys2Proof

/-- The three commands of the block (R3, R72). -/
inductive Instr where
  | hash
  | randU64
  | randBytes
  deriving DecidableEq, Repr

end Sys2Proof
end

