-- ==== Sys2Proof/WellFormed.lean ====
section
/-! DEFINITION. Which command words and commands are well formed (30_encoding.md R70, R73). -/

namespace Sys2Proof

/-- Why a command word is no command (R73); both raise ILLEGAL_CMD (R143). -/
inductive IllegalWord where
  /-- `RSV`, bits [31:8], is not zero. -/
  | reservedBits
  /-- `OPC`, bits [7:0], is 0x00 or 0x04..0xFF. -/
  | reservedOpcode
  deriving DecidableEq, Repr

namespace CmdWord

/-- The check that the reserved field `RSV` = bits [31:8] is zero (R70, R73). -/
def rsvZero (w : Word32) : Bool := w.extractLsb' 8 24 == 0

/-- The check that `OPC` = bits [7:0] is one of the three opcodes (R72). -/
def opcKnown (w : Word32) : Bool :=
  w.extractLsb' 0 8 == 0x01 || w.extractLsb' 0 8 == 0x02 || w.extractLsb' 0 8 == 0x03

/-- A legal command word (R72, R73). -/
def wf (w : Word32) : Bool := rsvZero w && opcKnown w

end CmdWord

/-- A command carries no operand (R71), so none can be ill formed. -/
def Instr.wf : Instr → Bool
  | .hash => true
  | .randU64 => true
  | .randBytes => true

end Sys2Proof
end

