-- ==== Sys2Proof/Decode.lean ====
section
/-! DEFINITION. Decoding a command word, total on all 2^32 words (30_encoding.md R75), and the encoder. -/

namespace Sys2Proof

/-- The field `OPC` of a command word (R70). -/
def opcField (w : Word32) : BitVec 8 := w.extractLsb' 0 8

/-- The field `RSV` of a command word (R70). -/
def rsvField (w : Word32) : BitVec 24 := w.extractLsb' 8 24

/-- The opcode map (R72); every other opcode is reserved (R73). -/
def instrOfOpcode (opc : BitVec 8) : Option Instr :=
  if opc = 0x01 then some .hash
  else if opc = 0x02 then some .randU64
  else if opc = 0x03 then some .randBytes
  else none

/-- `decode` of R75: RSV is checked first, then OPC (R147). -/
def decode (w : Word32) : Except IllegalWord Instr :=
  if rsvField w ≠ 0 then .error .reservedBits
  else match instrOfOpcode (opcField w) with
    | some i => .ok i
    | none => .error .reservedOpcode

/-- The opcode of a command (R72). -/
def Instr.opcode : Instr → BitVec 8
  | .hash => 0x01
  | .randU64 => 0x02
  | .randBytes => 0x03

/-- The command word of a command: `RSV` = 0 above `OPC` (R70). -/
def encode (i : Instr) : Word32 := (0 : BitVec 24) ++ i.opcode

/-- The host's view of the decoder: the low `nbits` bits of `w` as one command word. A command is one 32-bit word (R70), so
a number that does not fit 32 bits is none. -/
def decodeTableWord (nbits w : Nat) : Option Instr :=
  if w % 2 ^ nbits < 2 ^ 32 then
    match decode (BitVec.ofNat 32 (w % 2 ^ nbits)) with
    | .ok i => some i
    | .error _ => none
  else none

end Sys2Proof
end

