-- ==== Sys2Proof/Config.lean ====
section
/-! DEFINITION. What is fixed for the whole run (00_scope.md R7), and the values the spec leaves free. A free value is an
`opaque` constant with no body: nothing can be proved of it, so a claim holds whatever it is. -/

namespace Sys2Proof

/-- The `kind` of a buffer use (R7, R50): HASH reads its buffer, RAND_BYTES writes it. -/
inductive AccessKind where
  | read
  | write
  deriving DecidableEq, Repr

/-- A host buffer as `admits(addr, len, kind)` sees it (R7). -/
structure Buffer where
  addr : Word64
  len  : Word64
  kind : AccessKind
  deriving DecidableEq, Repr

/-- The open parameters of R7. `launch` lists the ranges the launch memory admits: exactly the triples on which the
platform's `admits` is true (log entry 2). -/
structure Params where
  base   : Word64
  seed   : Vector Word32 4
  launch : List Buffer
  deriving DecidableEq, Repr

namespace Config

/-- `ADDR_WIDTH` (R7). -/
abbrev addrWidth : Nat := 64

/-- `MAX_HASH_LEN` (R7): the largest HASH length whose bit count fits 64 bits. -/
abbrev maxHashLen : Nat := 2 ^ 61 - 1

/-- The size of the register window in bytes (R22). -/
abbrev windowSize : Nat := 0x80

/-- `BASE`, OPEN (R7, I6). -/
opaque base : Word64

/-- `SEED[0..3]`, OPEN: no source gives the values (R7, I5, 91_not_in_source.md N4). -/
opaque seed : Vector Word32 4

/-- The ranges `admits` is true on, OPEN (R7, I7). -/
opaque launch : List Buffer

/-- The open parameters together, as `State.reset` takes them. -/
def params : Params := { base := base, seed := seed, launch := launch }

/-- The capability probe's answer `avail` at the n-th draw: a free value (R8, R122, I3; log entry 3). -/
opaque probe : Nat → Bool

/-- The hardware draw's status flag `ok` at the n-th draw: a free value (R8, R123, I4; log entry 3). -/
opaque hwOk : Nat → Bool

/-- The hardware draw's value `v` at the n-th draw: a free value (R8, R123, I4; log entry 3). -/
opaque hwValue : Nat → Word64

/-- HashState while no HASH runs: a free value (R32, I12; log entry 4). -/
opaque hiddenH : Nat → Words8

/-- The working set `a..h` while no HASH runs: a free value (R33, I12; log entry 4). -/
opaque hiddenWork : Nat → Words8

/-- The MessageSchedule while no HASH runs: a free value (R34, I12; log entry 4). -/
opaque hiddenW : Nat → Words64

/-- The block buffer `BLK` while no HASH runs: a free value (R35, I12; log entry 4). -/
opaque hiddenBlk : Nat → Block

/-- The block index `i` while no HASH runs: a free value (R35; log entry 4). -/
opaque hiddenIndex : Nat → Word64

/-- The round index `t` while no HASH runs: a free value (R35; log entry 4). -/
opaque hiddenRound : Nat → Fin 64

end Config
end Sys2Proof
end

