-- ==== Sys2Proof/Machine/State.lean ====
section
/-! DEFINITION. The state of the block (10_state.md R20), the host's pending accesses, and the reasons a step can stop. Plain data. -/

namespace Sys2Proof.Machine

/-- The block mode (R40). -/
inductive Mode where
  | run
  | faulted
  deriving DecidableEq, Repr

/-- The cause of a hardware fault (R142). -/
inductive Cause where
  | illegalCmd
  | badBuffer
  | hashLenRange
  | badRegAccess
  deriving DecidableEq, Repr

/-- The phase of the HashEngine's sequencer (R35). -/
inductive Phase where
  | idle
  | full
  | pad
  | lenblk
  | out
  deriving DecidableEq, Repr

/-- The EntropySource's single control state (R120). -/
inductive EntropyPhase where
  | ready
  deriving DecidableEq, Repr

/-- The working set `a..h` (R33). -/
structure WorkingSet where
  a : Word32
  b : Word32
  c : Word32
  d : Word32
  e : Word32
  f : Word32
  g : Word32
  h : Word32
  deriving DecidableEq, Repr

/-- HashEngine internal state (R32–R35): HashState `h`, the working set, the MessageSchedule `w`, and the sequencer's
phase, block index `i`, round index `t` and block buffer `BLK`. -/
structure HashEngine where
  phase      : Phase
  blockIndex : Word64
  round      : Fin 64
  h          : Words8
  work       : WorkingSet
  w          : Words64
  blk        : Block
  deriving DecidableEq, Repr

/-- EntropyState `s0..s3` (R36). -/
structure EntropyState where
  s0 : Word32
  s1 : Word32
  s2 : Word32
  s3 : Word32
  deriving DecidableEq, Repr

/-- What the external RNG port answers to one draw (R37): the probe said no, or it said yes and the one hardware draw gave
its status flag and value. -/
inductive RngAnswer where
  | unavailable
  | hardware (ok : Bool) (v : Word64)
  deriving DecidableEq, Repr

/-- One host bus access. A register access is named by its offset in the window (R22) and its width in bytes, as R76 and
95_test_vectors.md name it; a memory access is one byte wide (R56). -/
inductive BusOp where
  | regRead (off : BitVec 7) (bytes : Nat)
  | regWrite (off : BitVec 7) (bytes : Nat) (value : Word64)
  | memRead (addr : Word64)
  | memWrite (addr : Word64) (value : Byte)
  deriving DecidableEq, Repr

/-- An access that a bus agent other than the issuing host makes while the host's access is in progress (R68): a store of
a byte, or a load (`none`). -/
structure AgentAccess where
  addr  : Word64
  store : Option Byte
  deriving DecidableEq, Repr

/-- One host access with what the serialisation duty needs (R165): the host context that makes it, whether it is the
last access of that context's command sequence, and what other agents do meanwhile (R68). -/
structure BusEvent where
  ctx    : Nat
  last   : Bool
  op     : BusOp
  others : List AgentAccess
  deriving DecidableEq, Repr

/-- The commands the block does not have (R74, I17). -/
inductive ExcludedCommand where
  | hashInit
  | hashUpdate
  | hashFinal
  | readEntropyState
  | writeEntropyState
  | readProbe
  | selectHardwarePath
  | selectFallbackPath
  deriving DecidableEq, Repr

/-- What the outside can do to the block next: a bus access, a block reset (R160), or a request for a command the block
does not have (R74). -/
inductive Input where
  | bus (e : BusEvent)
  | blockReset
  | excluded (c : ExcludedCommand)
  deriving DecidableEq, Repr

/-- What the bus answers to the latest access: nothing yet, a write done, a value read, or an access that R23 calls illegal, whose
bus value is no result (I9). -/
inductive BusReply where
  | none
  | ack
  | byte (v : Byte)
  | word32 (v : Word32)
  | word64 (v : Word64)
  | illegal
  deriving DecidableEq, Repr

/-- The two cases of the model-only fault RACE (R149). -/
inductive RaceCase where
  /-- (a) two host contexts interleave their command sequences (R165). -/
  | interleavedSequences
  /-- (b) another agent writes a HASH input or touches a RAND_BYTES output during the command (R68). -/
  | bufferTouched
  deriving DecidableEq, Repr

/-- The model's faults. A fault the hardware reports (ILLEGAL_CMD, BAD_BUFFER, HASH_LEN_RANGE, BAD_REG_ACCESS) is no stop: it is a
next state in mode FAULTED (R141). -/
inductive Fault where
  /-- RACE (R149), raised by `Bus.busEvent`. Safe: the source calls the behaviour "a data race and undefined". -/
  | race (c : RaceCase)
  deriving DecidableEq, Repr

/-- The model's refusals. -/
inductive Refusal where
  /-- A command that has no meaning yet. No arm of `exec` uses it. Safe. -/
  | notModelled (mnemonic : String)
  /-- A command the block does not have, which a model must refuse by name (R74, I17). Raised by `Bus.serve`. Safe. -/
  | excludedCommand (c : ExcludedCommand)
  /-- A read of STATUS that shows a reserved cause code 5–15, which a model must refuse (I11). Raised by `Window.regRead`; no reachable
  state has one. Safe. -/
  | reservedCause (code : BitVec 4)
  deriving DecidableEq, Repr

/-- The whole machine. The fields from `inputs` on are the model's own, not the block's (INVENTORY.md, State). -/
structure State where
  /-- The open parameters of R7; no step changes them (log entry 2). -/
  params       : Params
  /-- The block mode (R40). -/
  mode         : Mode
  /-- STATUS (R25). -/
  status       : Word32
  /-- SRC (R26). -/
  src          : Word64
  /-- LEN (R27). -/
  len          : Word64
  /-- DST (R28). -/
  dst          : Word64
  /-- RESULT (R29). -/
  result       : Word64
  /-- DIGEST0..7 (R30). -/
  digest       : Words8
  /-- HashEngine internal state (R32–R35). -/
  engine       : HashEngine
  /-- EntropyState (R36). -/
  entropy      : EntropyState
  /-- The EntropySource's control state (R120). -/
  entropyPhase : EntropyPhase
  /-- Host memory (R50): the bytes that are not zero, addresses strictly rising (log entry 5). -/
  mem          : List Host.Cell
  /-- The model's own: what the outside does next, oldest first (log entry 6). -/
  inputs       : List Input
  /-- The model's own: the answer of the latest bus access (log entry 9). -/
  reply        : BusReply
  /-- The model's own: the host context whose command sequence is open (R165; log entry 7). -/
  sequence     : Option Nat
  /-- The model's own: the RNG port's next answers, oldest first; free values follow them (R8; log entry 3). -/
  rngScript    : List RngAnswer
  /-- The model's own: how many draws there were, the index of the next free answer (log entry 3). -/
  draws        : Nat
  /-- The model's own: the index of the next free hidden HashEngine value (log entry 4). -/
  hiddenCount  : Nat
  deriving DecidableEq, Repr

/-- A working set from eight words in the order `a..h` (R97). -/
def WorkingSet.ofWords (x : Words8) : WorkingSet :=
  { a := x[0], b := x[1], c := x[2], d := x[3], e := x[4], f := x[5], g := x[6], h := x[7] }

/-- The HashEngine while no HASH runs: phase IDLE (R35), every other field a free value (I12; log entry 4). -/
def HashEngine.hidden (n : Nat) : HashEngine :=
  { phase := .idle, blockIndex := Config.hiddenIndex n, round := Config.hiddenRound n, h := Config.hiddenH n
    work := WorkingSet.ofWords (Config.hiddenWork n), w := Config.hiddenW n, blk := Config.hiddenBlk n }

/-- EntropyState from the seed: `s_k <- SEED[k]` (R36, R160). -/
def EntropyState.ofSeed (x : Vector Word32 4) : EntropyState :=
  { s0 := x[0], s1 := x[1], s2 := x[2], s3 := x[3] }

/-- The machine right after reset (R160), with the open parameters of Config, no host access pending and no byte of memory
listed. -/
def State.reset : State :=
  { params := Config.params
    mode := .run
    status := 0
    src := 0
    len := 0
    dst := 0
    result := 0
    digest := Vector.replicate 8 0
    engine := HashEngine.hidden 0
    entropy := EntropyState.ofSeed Config.seed
    entropyPhase := .ready
    mem := []
    inputs := []
    reply := .none
    sequence := none
    rngScript := []
    draws := 0
    hiddenCount := 1 }

end Sys2Proof.Machine
end

