-- ==== Sys2Proof/Machine/Flags.lean ====
section
/-! DEFINITION. The STATUS register's fields (10_state.md R25) and the fault causes' codes (60_exceptions.md R142). The block's one
flag, the hardware draw's `ok`, is not stored (R38): it is part of the RNG port's answer. -/

namespace Sys2Proof.Machine

/-- The code of a cause (R142). -/
def Cause.code : Cause → BitVec 4
  | .illegalCmd => 1
  | .badBuffer => 2
  | .hashLenRange => 3
  | .badRegAccess => 4

namespace Status

/-- STATUS.FAULT, bit [0] (R25). -/
def faultBit (w : Word32) : Bool := w.getLsbD 0

/-- STATUS.CAUSE, bits [7:4] (R25). -/
def cause (w : Word32) : BitVec 4 := w.extractLsb' 4 4

/-- The reserved bits [3:1] and [31:8], hardwired 0 (R25, I10). -/
def reserved (w : Word32) : Word32 := w &&& 0xFFFFFF0E

/-- The codes 5–15 are reserved and never raised (R142, I11). -/
def causeReserved (w : Word32) : Bool := decide (4 < (cause w).toNat)

/-- STATUS after a fault: FAULT = 1, CAUSE = the code, every reserved bit 0 (R141, R25). -/
def ofCause (c : Cause) : Word32 := (0 : BitVec 24) ++ c.code ++ (0b0001 : BitVec 4)

end Status
end Sys2Proof.Machine
end

