-- ==== Sys2Proof/Machine/Operands.lean ====
section
/-! DEFINITION. The operands of a command, which are the operand registers' current values (30_encoding.md R71), and the byte order of
everything that crosses host memory (20_memory.md R52–R54, 00_scope.md R12). -/

namespace Sys2Proof.Machine

/-- `ROTR(a, n)` on 32-bit words (R10), for `0 < n < 32`. -/
def rotr (a : Word32) (n : Nat) : Word32 := (a >>> n) ||| (a <<< (32 - n))

/-- `BE32(b0, b1, b2, b3)` = `{b0, b1, b2, b3}` (R12). -/
def be32 (b0 b1 b2 b3 : Byte) : Word32 := b0 ++ b1 ++ b2 ++ b3

/-- `byte_k(v)` = `v[8k+7 : 8k]` of a 64-bit word (R12). -/
def byteOf (v : Word64) (k : Nat) : Byte := v.extractLsb' (8 * k) 8

/-- `byte_k(v)` of a 32-bit word (R12). -/
def byteOf32 (v : Word32) (k : Nat) : Byte := v.extractLsb' (8 * k) 8

/-- Digest byte `D[j]` = `byte_{3 − (j mod 4)}(H[j div 4])` (R53 b): the 32-byte big-endian serialisation. -/
def digestByte (x : Words8) (j : Fin 32) : Byte :=
  byteOf32 (x.get ⟨j.val / 4, by omega⟩) (3 - j.val % 4)

/-- HASH's buffer: `(SRC, LEN)`, read (R58, R71). -/
def hashBuffer (s : State) : Buffer := { addr := s.src, len := s.len, kind := .read }

/-- RAND_BYTES' buffer: `(DST, LEN)`, written (R58, R71). -/
def randBuffer (s : State) : Buffer := { addr := s.dst, len := s.len, kind := .write }

end Sys2Proof.Machine
end

