-- ==== Sys2Proof/Machine/Ops.lean ====
section
/-! DEFINITION. The shared operations: host memory, the buffer check, fault entry, the frame of a command, and the block reset. -/

namespace Sys2Proof.Machine

/-! ### Host memory (R50) -/

namespace Memory

/-- What an unlisted address reads as: DESIGN CHOICE (log entry 5). The spec gives no contents of host memory. -/
def blank : Byte := 0

/-- One form for equal memories: addresses strictly rising and inside the address space (R50), no entry equal to what an unlisted
address reads as. -/
abbrev wf (m : List Host.Cell) : Prop :=
  m.Pairwise (fun x y => x.1 < y.1) ∧ ∀ c ∈ m, c.2 ≠ blank ∧ c.1 < 2 ^ Config.addrWidth

/-- `MemRead(a, 1)` (R12, R56). -/
def read : List Host.Cell → Nat → Byte
  | [], _ => blank
  | (k, x) :: rest, a => if k = a then x else read rest a

/-- One cell, or none where the byte is what an unlisted address reads as. -/
def cell (a : Nat) (v : Byte) (rest : List Host.Cell) : List Host.Cell :=
  if v = blank then rest else (a, v) :: rest

/-- `MemWrite(a, 1, v)` (R12, R56). -/
def write : List Host.Cell → Nat → Byte → List Host.Cell
  | [], a, v => cell a v []
  | (k, x) :: rest, a, v =>
    if a < k then cell a v ((k, x) :: rest)
    else if a = k then cell a v rest
    else (k, x) :: write rest a v

/-- The low `c` bytes of `v` at `a, a+1, …`, least significant first, in increasing address order (R54, R60, R127). -/
def writeLE (m : List Host.Cell) (a : Nat) (v : Word64) : Nat → List Host.Cell
  | 0 => m
  | c + 1 => write (writeLE m a v c) (a + c) (byteOf v c)

end Memory

/-! ### The buffer check (R58) -/

/-- Is a host address inside the register window `BASE .. BASE + 0x7F` (R51)? -/
def inWindow (base addr : Word64) : Bool := decide ((addr - base).toNat < Config.windowSize)

/-- Does a nonempty range that does not wrap overlap the register window (R51)? It does when its first byte is inside the window, or
the window's first byte is inside the range. -/
def overlapsWindow (base : Word64) (b : Buffer) : Bool :=
  inWindow base b.addr || decide ((base - b.addr).toNat < b.len.toNat)

/-- `admits(addr, len, kind)` (R7, R50): the launch memory lists the range, and the range does not overlap the window (R51). -/
def admits (p : Params) (b : Buffer) : Bool := decide (b ∈ p.launch) && !overlapsWindow p.base b

/-- `buffer_check(A, N, kind)` (R58): the fault it raises, if any; wrap first, then admission (R147). -/
def bufferCheck (p : Params) (b : Buffer) : Option Cause :=
  if b.len = 0 then none
  else if 2 ^ Config.addrWidth < b.addr.toNat + b.len.toNat then some .badBuffer
  else if admits p b then none
  else some .badBuffer

/-! ### Fault entry (R141) and the frame of a command -/

/-- `raise Fault(cause)` (R141): STATUS.FAULT, STATUS.CAUSE and the mode, nothing else. It happens in mode RUN; in mode FAULTED nothing
changes and STATUS keeps the first cause (R148). -/
def raiseFault (c : Cause) (s : State) : State :=
  match s.mode with
  | .run => { s with status := Status.ofCause c, mode := .faulted }
  | .faulted => s

/-- A command: ignored in mode FAULTED (R31, R148); else its checks come before its first effect and a failed check ends it with
the fault alone (R151); else all of its effects land at once (R11, R55). -/
def runCommand (check : Option Cause) (effect : State) (s : State) : Host.Outcome State Fault Refusal :=
  match s.mode with
  | .faulted => .next s
  | .run =>
    match check with
    | some c => .next (raiseFault c s)
    | none => .next effect

/-! ### Reset (R160) -/

/-- The block reset (R160). Host memory, the parameters and what the outside will do next are not the block's and stay (log
entry 17); the command sequence in progress is broken off. -/
def blockReset (s : State) : State :=
  { s with
    mode := .run
    status := 0
    src := 0
    len := 0
    dst := 0
    result := 0
    digest := Vector.replicate 8 0
    engine := HashEngine.hidden s.hiddenCount
    entropy := EntropyState.ofSeed s.params.seed
    entropyPhase := .ready
    reply := .none
    sequence := none
    hiddenCount := s.hiddenCount + 1 }

end Sys2Proof.Machine
end

