-- ==== Sys2Proof/Machine/Entropy.lean ====
section
/-! DEFINITION. The EntropySource: one draw (41_entropy.md R121–R125) and the commands RAND_U64 (R126) and RAND_BYTES (R127). -/

namespace Sys2Proof.Machine

/-! ### One draw -/

/-- EntropyState after one fallback step (R124). -/
def EntropyState.next (x : EntropyState) : EntropyState :=
  let t := x.s3
  let t := t ^^^ (t <<< 11)
  let t := t ^^^ (t >>> 8)
  { s0 := t ^^^ x.s0 ^^^ (x.s0 >>> 19), s1 := x.s0, s2 := x.s1, s3 := x.s2 }

/-- The 64-bit output `{s0, s1}` of the state after the step (R124). -/
def EntropyState.output (x : EntropyState) : Word64 := x.s0 ++ x.s1

/-- The free answer of the RNG port to draw number `n` (R8, R122, R123; log entry 3). -/
def freeAnswer (n : Nat) : RngAnswer :=
  if Config.probe n then .hardware (Config.hwOk n) (Config.hwValue n) else .unavailable

/-- What the port answers to the next draw: the script's first answer, or a free value when the script is empty. -/
def nextAnswer (s : State) : RngAnswer :=
  match s.rngScript with
  | [] => freeAnswer s.draws
  | x :: _ => x

/-- The port's side of one draw: its answer is used up. -/
def takeAnswer (s : State) : State := { s with rngScript := s.rngScript.tail, draws := s.draws + 1 }

/-- Does an answer send the draw to the fallback (R121)? The probe says no, or the one hardware draw fails. -/
def RngAnswer.fallsBack : RngAnswer → Bool
  | .unavailable => true
  | .hardware ok _ => !ok

/-- EntropyState after a draw that got this answer (R125): only a fallback draw changes it. -/
def RngAnswer.entropyAfter (x : RngAnswer) (e : EntropyState) : EntropyState :=
  if x.fallsBack then e.next else e

/-- The value of a draw that got this answer (R121, R123): the hardware's value unchanged, or the fallback's output. A failed
hardware draw's value is discarded (R38). -/
def RngAnswer.value (x : RngAnswer) (e : EntropyState) : Word64 :=
  match x with
  | .hardware true v => v
  | .hardware false _ => e.next.output
  | .unavailable => e.next.output

/-- The value `draw()` returns (R121). -/
def drawValue (s : State) : Word64 := (nextAnswer s).value s.entropy

/-- The state after `draw()` (R121): exactly one probe (R122), at most one hardware draw (R123). -/
def drawState (s : State) : State :=
  { takeAnswer s with entropy := (nextAnswer s).entropyAfter s.entropy }

/-- The state after `n` draws. -/
def drawMany : Nat → State → State
  | 0, s => s
  | n + 1, s => drawMany n (drawState s)

/-! ### RAND_U64 -/

/-- All of RAND_U64's effects: `RESULT <- draw()` (R126). -/
def randU64Effect (s : State) : State := { drawState s with result := drawValue s }

/-- RAND_U64 (R126). It has no check and cannot fault. -/
def execRandU64 (s : State) : Host.Outcome State Fault Refusal :=
  runCommand none (randU64Effect s) s

/-! ### RAND_BYTES -/

/-- How many draws fill `n` bytes (R128). -/
def drawCount (n : Nat) : Nat := (n + 7) / 8

/-- The loop of R127 for its next `q` words: address of the next byte, bytes still to fill, state. -/
def fillWords : Nat → Nat → Nat → State → State
  | 0, _, _, s => s
  | q + 1, addr, left, s =>
    let s' := drawState s
    fillWords q (addr + 8) (left - 8) { s' with mem := Memory.writeLE s'.mem addr (drawValue s) (min 8 left) }

/-- All of RAND_BYTES' effects (R127). -/
def randBytesEffect (s : State) : State := fillWords (drawCount s.len.toNat) s.dst.toNat s.len.toNat s

/-- RAND_BYTES (R127). -/
def execRandBytes (s : State) : Host.Outcome State Fault Refusal :=
  runCommand (bufferCheck s.params (randBuffer s)) (randBytesEffect s) s

end Sys2Proof.Machine
end

