-- ==== Sys2Proof/Machine/Sha256.lean ====
section
/-! DEFINITION. SHA-256 as 40_hash.md states it: constants (R86, R87), functions (R88–R90), padding (R91–R94), compression
(R95–R98), and the whole of R85's computation as a function of the message bytes (R99, R101). -/

namespace Sys2Proof.Machine.Sha256

/-! ### Constants -/

/-- The initial HashState (R86). -/
def iv : Words8 :=
  #v[0x6a09e667, 0xbb67ae85, 0x3c6ef372, 0xa54ff53a, 0x510e527f, 0x9b05688c, 0x1f83d9ab, 0x5be0cd19]

/-- The round constants `K[0..63]` (R87), one row of the spec's table a line. -/
def k : Words64 :=
  (#v[0x428a2f98, 0x71374491, 0xb5c0fbcf, 0xe9b5dba5, 0x3956c25b, 0x59f111f1, 0x923f82a4, 0xab1c5ed5] : Vector Word32 8) ++
  (#v[0xd807aa98, 0x12835b01, 0x243185be, 0x550c7dc3, 0x72be5d74, 0x80deb1fe, 0x9bdc06a7, 0xc19bf174] : Vector Word32 8) ++
  (#v[0xe49b69c1, 0xefbe4786, 0x0fc19dc6, 0x240ca1cc, 0x2de92c6f, 0x4a7484aa, 0x5cb0a9dc, 0x76f988da] : Vector Word32 8) ++
  (#v[0x983e5152, 0xa831c66d, 0xb00327c8, 0xbf597fc7, 0xc6e00bf3, 0xd5a79147, 0x06ca6351, 0x14292967] : Vector Word32 8) ++
  (#v[0x27b70a85, 0x2e1b2138, 0x4d2c6dfc, 0x53380d13, 0x650a7354, 0x766a0abb, 0x81c2c92e, 0x92722c85] : Vector Word32 8) ++
  (#v[0xa2bfe8a1, 0xa81a664b, 0xc24b8b70, 0xc76c51a3, 0xd192e819, 0xd6990624, 0xf40e3585, 0x106aa070] : Vector Word32 8) ++
  (#v[0x19a4c116, 0x1e376c08, 0x2748774c, 0x34b0bcb5, 0x391c0cb3, 0x4ed8aa4a, 0x5b9cca4f, 0x682e6ff3] : Vector Word32 8) ++
  (#v[0x748f82ee, 0x78a5636f, 0x84c87814, 0x8cc70208, 0x90befffa, 0xa4506ceb, 0xbef9a3f7, 0xc67178f2] : Vector Word32 8)

/-! ### Functions -/

/-- Choose (R88). -/
def ch (x y z : Word32) : Word32 := (x &&& y) ^^^ (~~~x &&& z)

/-- Majority (R88). -/
def maj (x y z : Word32) : Word32 := (x &&& y) ^^^ (x &&& z) ^^^ (y &&& z)

/-- Σ0 (R89). -/
def bigSigma0 (x : Word32) : Word32 := rotr x 2 ^^^ rotr x 13 ^^^ rotr x 22

/-- Σ1 (R89). -/
def bigSigma1 (x : Word32) : Word32 := rotr x 6 ^^^ rotr x 11 ^^^ rotr x 25

/-- σ0 (R90). -/
def smallSigma0 (x : Word32) : Word32 := rotr x 7 ^^^ rotr x 18 ^^^ (x >>> 3)

/-- σ1 (R90). -/
def smallSigma1 (x : Word32) : Word32 := rotr x 17 ^^^ rotr x 19 ^^^ (x >>> 10)

/-! ### Compression -/

/-- `M[t]` = `BE32(B[4t], …, B[4t+3])` for `t < 16` (R52). -/
def blockWord (b : Block) (t : Fin 16) : Word32 :=
  be32 (b.get ⟨4 * t.val, by omega⟩) (b.get ⟨4 * t.val + 1, by omega⟩)
    (b.get ⟨4 * t.val + 2, by omega⟩) (b.get ⟨4 * t.val + 3, by omega⟩)

/-- R95's first line: `W[0..15]` are the block's words; the others stay. -/
def loadWords (b : Block) (w : Words64) : Words64 :=
  Vector.ofFn fun t : Fin 64 => if h : t.val < 16 then blockWord b ⟨t.val, h⟩ else w.get t

/-- The word R95's second line computes for `t ≥ 16` from earlier words. -/
def nextWord (w : Words64) (t : Fin 64) : Word32 :=
  smallSigma1 (w.get (t - 2)) + w.get (t - 7) + smallSigma0 (w.get (t - 15)) + w.get (t - 16)

/-- R95's step at `t`: `W[t]` is computed for `t ≥ 16`, and is the block's own word before that. -/
def extendAt (w : Words64) (t : Fin 64) : Words64 :=
  if 16 ≤ t.val then w.set t.val (nextWord w t) t.isLt else w

/-- The whole MessageSchedule of a block (R95). -/
def schedule (b : Block) : Words64 :=
  (List.finRange 64).foldl extendAt (loadWords b (Vector.replicate 64 0))

/-- One round with the round constant `kt` and the schedule word `wt` (R96). -/
def round (x : WorkingSet) (kt wt : Word32) : WorkingSet :=
  let t1 := x.h + bigSigma1 x.e + ch x.e x.f x.g + kt + wt
  let t2 := bigSigma0 x.a + maj x.a x.b x.c
  { a := t1 + t2, b := x.a, c := x.b, d := x.c, e := x.d + t1, f := x.e, g := x.f, h := x.g }

/-- The fold of the working set into HashState (R97). -/
def foldInto (h : Words8) (x : WorkingSet) : Words8 :=
  #v[h[0] + x.a, h[1] + x.b, h[2] + x.c, h[3] + x.d, h[4] + x.e, h[5] + x.f, h[6] + x.g, h[7] + x.h]

/-- `compress(H, B)` (R98): the whole schedule first (R95), then the 64 rounds (R96), then the fold (R97). -/
def compress (h : Words8) (b : Block) : Words8 :=
  let w := schedule b
  foldInto h ((List.finRange 64).foldl (fun x t => round x (k.get t) (w.get t)) (WorkingSet.ofWords h))

/-! ### Padding. A message is given by its bytes `m j` and its length `len` in bytes (R91). -/

/-- The complete block number `i` (R91). -/
def messageBlock (m : Nat → Byte) (i : Nat) : Block := Vector.ofFn fun j : Fin 64 => m (64 * i + j.val)

/-- The final padded block `P` (R92): the remainder, 0x80, zeros. -/
def padBlock (m : Nat → Byte) (len : Nat) : Block :=
  Vector.ofFn fun j : Fin 64 =>
    if j.val < len % 64 then m (64 * (len / 64) + j.val)
    else if j.val = len % 64 then 0x80
    else 0x00

/-- A block of zeros (R93). -/
def zeroBlock : Block := Vector.replicate 64 0

/-- Bytes 56..63 overwritten with `BE64(8 · len)`, most significant byte first (R94, R53 a). -/
def putLength (b : Block) (len : Nat) : Block :=
  Vector.ofFn fun j : Fin 64 =>
    if 56 ≤ j.val then byteOf (BitVec.ofNat 64 (8 * len)) (7 - (j.val - 56)) else b.get j

/-- The blocks HASH compresses, in order (R91–R94). -/
def paddedBlocks (m : Nat → Byte) (len : Nat) : List Block :=
  (List.range (len / 64)).map (messageBlock m) ++
    if 56 ≤ len % 64 then [padBlock m len, putLength zeroBlock len]
    else [putLength (padBlock m len) len]

/-- R85's computation: the eight words DIGEST0..7 of a message (R99). -/
def digest (m : Nat → Byte) (len : Nat) : Words8 :=
  (paddedBlocks m len).foldl compress iv

/-- The digest of a byte list. -/
def digestOf (bytes : List Byte) : Words8 := digest (fun j => bytes.getD j 0) bytes.length

end Sys2Proof.Machine.Sha256
end

