-- ==== Sys2Proof/Machine/Sequencer.lean ====
section
/-! DEFINITION. The HashEngine as the state machine of 40_hash.md R102, over the sequencer state of 10_state.md R35. HASH is one
run of it from IDLE to IDLE; none of its steps is visible to the host (R55). -/

namespace Sys2Proof.Machine

namespace HashEngine

/-- The start of one block's compression: `W[0..15]` from BLK, `t <- 0`, `(a..h) <- H` (R102, R97). -/
def loadBlock (e : HashEngine) : HashEngine :=
  { e with w := Sha256.loadWords e.blk e.w, round := 0, work := WorkingSet.ofWords e.h }

/-- Round step `t`: `W[t]` for `t ≥ 16` first (R95), then R96. After `t = 63` the index wraps to 0 (log entry 14). -/
def roundStep (e : HashEngine) : HashEngine :=
  let w := Sha256.extendAt e.w e.round
  { e with w := w, work := Sha256.round e.work (Sha256.k.get e.round) (w.get e.round), round := e.round + 1 }

/-- The fold after round 63 (R97). -/
def fold (e : HashEngine) : HashEngine := { e with h := Sha256.foldInto e.h e.work }

/-- `n` round steps. -/
def rounds : Nat → HashEngine → HashEngine
  | 0, e => e
  | n + 1, e => rounds n (roundStep e)

/-- `compress(BLK)` on the engine's own registers (R102). -/
def compress (e : HashEngine) : HashEngine := (rounds 64 e.loadBlock).fold

end HashEngine

/-- `m[j]` = `MemRead(SRC + j, 1)` (R52). -/
def messageByte (s : State) (j : Nat) : Byte := Memory.read s.mem (s.src.toNat + j)

/-- `IDLE → FULL` (R102): `H <- IV; i <- 0`. -/
def seqStart (s : State) : State :=
  { s with engine := { s.engine with phase := .full, h := Sha256.iv, blockIndex := 0 } }

/-- One arrow of R102's state machine, from any phase but IDLE. -/
def seqStep (s : State) : State :=
  match s.engine.phase with
  | .idle => s
  | .full =>
    if s.engine.blockIndex.toNat < s.len.toNat / 64 then
      let e := { s.engine with blk := Sha256.messageBlock (messageByte s) s.engine.blockIndex.toNat }.compress
      { s with engine := { e with blockIndex := e.blockIndex + 1 } }
    else
      { s with engine := { s.engine with phase := .pad, blk := Sha256.padBlock (messageByte s) s.len.toNat } }
  | .pad =>
    if 56 ≤ s.len.toNat % 64 then
      { s with engine := { s.engine.compress with phase := .lenblk, blk := Sha256.zeroBlock } }
    else
      { s with engine := { s.engine with phase := .lenblk } }
  | .lenblk =>
    { s with engine :=
        { { s.engine with blk := Sha256.putLength s.engine.blk s.len.toNat }.compress with phase := .out } }
  | .out => { s with digest := s.engine.h, engine := { s.engine with phase := .idle } }

/-- `n` arrows. -/
def seqRun : Nat → State → State
  | 0, s => s
  | n + 1, s => seqRun n (seqStep s)

/-- How many arrows a HASH of `len` bytes takes after `seqStart`: one for each complete block, then FULL → PAD → LENBLK → OUT → IDLE. -/
def seqLength (len : Nat) : Nat := len / 64 + 4

/-- Between commands the HashEngine's fields hold any value (I12) in phase IDLE (R35): the next free value. -/
def hideEngine (s : State) : State :=
  { s with engine := HashEngine.hidden s.hiddenCount, hiddenCount := s.hiddenCount + 1 }

end Sys2Proof.Machine
end

