-- ==== Sys2Proof/Machine/Hash.lean ====
section
/-! DEFINITION. The HASH command (40_hash.md R85). -/

namespace Sys2Proof.Machine

/-- HASH's checks, in the order of R147: the length (R145), then the buffer (R58). -/
def hashCheck (s : State) : Option Cause :=
  if Config.maxHashLen < s.len.toNat then some .hashLenRange
  else bufferCheck s.params (hashBuffer s)

/-- All of HASH's effects: the sequencer runs from IDLE to IDLE (R102), DIGEST0..7 hold the result (R99), and what the engine
holds afterwards is hidden (I12). -/
def hashEffect (s : State) : State := hideEngine (seqRun (seqLength s.len.toNat) (seqStart s))

/-- HASH (R85). -/
def execHash (s : State) : Host.Outcome State Fault Refusal :=
  runCommand (hashCheck s) (hashEffect s) s

end Sys2Proof.Machine
end

