-- ==== Sys2Proof/Machine/Dispatch.lean ====
section
/-! DEFINITION. One arm per command (30_encoding.md R72, R75). -/

namespace Sys2Proof.Machine

def exec (i : Instr) (s : State) : Host.Outcome State Fault Refusal :=
  match i with
  | .hash => Sys2Proof.Machine.execHash s
  | .randU64 => Sys2Proof.Machine.execRandU64 s
  | .randBytes => Sys2Proof.Machine.execRandBytes s

end Sys2Proof.Machine
end

