-- ==== Sys2Proof/Machine/Window.lean ====
section
/-! DEFINITION. The register window (10_state.md R22, R23): the map, which accesses are legal, and the registers' reads and writes. -/

namespace Sys2Proof.Machine

/-- The registers of the window (R22). -/
inductive Reg where
  | cmd
  | status
  | src
  | len
  | dst
  | result
  | digest (i : Fin 8)
  deriving DecidableEq, Repr

namespace Reg

/-- The offset of a register (R22). -/
def off : Reg → Nat
  | .cmd => 0x00
  | .status => 0x04
  | .src => 0x08
  | .len => 0x10
  | .dst => 0x18
  | .result => 0x20
  | .digest i => 0x28 + 4 * i.val

/-- The width of a register in bytes (R22). -/
def bytes : Reg → Nat
  | .cmd => 4
  | .status => 4
  | .src => 8
  | .len => 8
  | .dst => 8
  | .result => 8
  | .digest _ => 4

/-- May the host read the register (R22)? -/
def readable : Reg → Bool
  | .cmd => false
  | .status => true
  | .src => true
  | .len => true
  | .dst => true
  | .result => true
  | .digest _ => true

/-- May the host write the register (R22)? -/
def writable : Reg → Bool
  | .cmd => true
  | .status => false
  | .src => true
  | .len => true
  | .dst => true
  | .result => false
  | .digest _ => false

/-- Every register of the window (R22). -/
def all : List Reg :=
  [.cmd, .status, .src, .len, .dst, .result, .digest 0, .digest 1, .digest 2, .digest 3, .digest 4, .digest 5, .digest 6, .digest 7]

/-- The register at an offset; none at a reserved offset (R22). -/
def atOff (o : BitVec 7) : Option Reg := all.find? fun r => r.off == o.toNat

/-- The register a legal read names (R23): the offset is a register's, the width is its width, and it may be read. -/
def forRead (o : BitVec 7) (n : Nat) : Option Reg := (atOff o).filter fun r => r.bytes == n && r.readable

/-- The register a legal write names (R23). -/
def forWrite (o : BitVec 7) (n : Nat) : Option Reg := (atOff o).filter fun r => r.bytes == n && r.writable

/-- The value a legal read of a register returns (R25–R30). CMD holds no readable value (R24). -/
def value (s : State) : Reg → BusReply
  | .cmd => .illegal
  | .status => .word32 s.status
  | .src => .word64 s.src
  | .len => .word64 s.len
  | .dst => .word64 s.dst
  | .result => .word64 s.result
  | .digest i => .word32 (s.digest.get i)

end Reg

/-- A legal write of an operand register (R26–R28); ignored in mode FAULTED (R31). -/
def writeOperand (r : Reg) (v : Word64) (s : State) : State :=
  match s.mode with
  | .faulted => s
  | .run =>
    match r with
    | .src => { s with src := v }
    | .len => { s with len := v }
    | .dst => { s with dst := v }
    | .cmd => s
    | .status => s
    | .result => s
    | .digest _ => s

/-- An access that R23 calls illegal: BAD_REG_ACCESS (R146), and no value on the bus that a model may use (I9). -/
def illegalAccess (s : State) : State := raiseFault .badRegAccess { s with reply := .illegal }

/-- A host read in the window (R23, R31). A STATUS with a reserved cause code is refused (I11). -/
def regRead (o : BitVec 7) (n : Nat) (s : State) : Host.Outcome State Fault Refusal :=
  match Reg.forRead o n with
  | none => .next (illegalAccess s)
  | some .status =>
    if Status.causeReserved s.status then .refused (.reservedCause (Status.cause s.status))
    else .next { s with reply := .word32 s.status }
  | some r => .next { s with reply := r.value s }

end Sys2Proof.Machine
end

