-- ==== Sys2Proof/Machine/Bus.lean ====
section
/-! DEFINITION. What the block and the bus do with the next thing the outside does: host accesses to the window and to host
memory (20_memory.md R50–R55, R63), the serialisation duties (R149, R165), the block reset (R160), and the refusal of R74. -/

namespace Sys2Proof.Machine

/-- A legal CMD write (R24): the word is decoded (R75) and the command runs to completion (R55); an illegal word raises ILLEGAL_CMD and has
no other effect (R73, R143). In mode FAULTED neither does anything (R31). -/
def issueCommand (w : Word32) (s : State) : Host.Outcome State Fault Refusal :=
  match decode w with
  | .ok i => exec i s
  | .error _ => .next (raiseFault .illegalCmd s)

/-- A host write in the window (R23, R24, R26–R28). -/
def regWrite (o : BitVec 7) (n : Nat) (v : Word64) (s : State) : Host.Outcome State Fault Refusal :=
  match Reg.forWrite o n with
  | none => .next (illegalAccess s)
  | some .cmd => issueCommand (v.setWidth 32) { s with reply := .ack }
  | some r => .next (writeOperand r v { s with reply := .ack })

/-- The bus routes `BASE .. BASE + 0x7F` to the block (R51): a byte access there is an 8-bit register access, which R23 calls
illegal. -/
def route (base : Word64) : BusOp → BusOp
  | .regRead o n => .regRead o n
  | .regWrite o n v => .regWrite o n v
  | .memRead a => if inWindow base a then .regRead ((a - base).setWidth 7) 1 else .memRead a
  | .memWrite a v => if inWindow base a then .regWrite ((a - base).setWidth 7) 1 (v.setWidth 64) else .memWrite a v

/-- Is a routed access a legal access to the window (R23)? Legality is checked before anything else (R147): an illegal access is no
operand write, CMD write or result read, so it belongs to no command sequence (R165) and can only fault. -/
def BusOp.legalInWindow : BusOp → Bool
  | .regRead o n => (Reg.forRead o n).isSome
  | .regWrite o n _ => (Reg.forWrite o n).isSome
  | .memRead _ => false
  | .memWrite _ _ => false

/-- A routed access, alone. Host memory holds what the host stored (R63). -/
def busOp (op : BusOp) (s : State) : Host.Outcome State Fault Refusal :=
  match op with
  | .regRead o n => regRead o n s
  | .regWrite o n v => regWrite o n v s
  | .memRead a => .next { s with reply := .byte (Memory.read s.mem a.toNat) }
  | .memWrite a v => .next { s with mem := Memory.write s.mem a.toNat v, reply := .ack }

/-! ### RACE (R149) -/

/-- R149 (a), R165: a legal access to the window by another host context than the one whose command sequence is open. -/
def otherContext (op : BusOp) (e : BusEvent) (s : State) : Bool :=
  op.legalInWindow &&
  match s.sequence with
  | none => false
  | some c => decide (c ≠ e.ctx)

/-- The open command sequence after a legal access to the window (R165; log entry 7). -/
def sequenceAfter (e : BusEvent) : Option Nat := if e.last then none else some e.ctx

/-- The buffer a command reads or writes, when it runs: in mode RUN, with its checks passed (R58, R151). RAND_U64 has none. -/
def usedBuffer (i : Instr) (s : State) : Option Buffer :=
  match s.mode with
  | .faulted => none
  | .run =>
    match i with
    | .hash => if (hashCheck s).isNone then some (hashBuffer s) else none
    | .randU64 => none
    | .randBytes => if (bufferCheck s.params (randBuffer s)).isNone then some (randBuffer s) else none

/-- The command a routed access issues, if any (R24). -/
def issuedBy : BusOp → Option Instr
  | .regWrite o n v =>
    if Reg.forWrite o n = some .cmd then (decode (v.setWidth 32)).toOption else none
  | .regRead _ _ => none
  | .memRead _ => none
  | .memWrite _ _ => none

/-- R149 (b): another agent's access that a command's buffer does not allow: a store into a HASH input, any access to a RAND_BYTES
output (R68). -/
def AgentAccess.touches (x : AgentAccess) (b : Buffer) : Bool :=
  decide (b.addr.toNat ≤ x.addr.toNat ∧ x.addr.toNat < b.addr.toNat + b.len.toNat) &&
  match b.kind with
  | .read => x.store.isSome
  | .write => true

/-- R149 (b) for a routed access. -/
def touchesBuffer (op : BusOp) (others : List AgentAccess) (s : State) : Bool :=
  others.any fun x =>
    match (issuedBy op).bind fun i => usedBuffer i s with
    | none => false
    | some b => x.touches b

/-! ### What other agents did meanwhile (log entry 8) -/

/-- Another agent's access in host memory: a store outside the window writes its byte. -/
def AgentAccess.land (base : Word64) (m : List Host.Cell) (x : AgentAccess) : List Host.Cell :=
  if inWindow base x.addr then m
  else match x.store with
    | none => m
    | some v => Memory.write m x.addr.toNat v

/-- Other agents' accesses take effect: in host memory their stores, in order; in the window, where a byte access is an 8-bit register
access and so illegal (R23, R51), BAD_REG_ACCESS (R146), which in mode FAULTED changes nothing (R148). -/
def applyOthers (others : List AgentAccess) (s : State) : State :=
  let t := { s with mem := others.foldl (AgentAccess.land s.params.base) s.mem }
  if others.any fun x => inWindow s.params.base x.addr then raiseFault .badRegAccess t else t

/-- What other agents did meanwhile takes effect after the access: the block accepts no other access before (R24, R55). -/
def land (others : List AgentAccess) : Host.Outcome State Fault Refusal → Host.Outcome State Fault Refusal
  | .next s => .next (applyOthers others s)
  | .fault r => .fault r
  | .refused r => .refused r

/-- The state in which a routed access runs: a legal access to the window is noted in the command sequence (R165). -/
def accessState (op : BusOp) (e : BusEvent) (s : State) : State :=
  { s with sequence := if op.legalInWindow then sequenceAfter e else s.sequence }

/-- One routed bus access: the two races, which an illegal access cannot meet (R147), then the access, atomically (R55), then what other
agents did meanwhile. -/
def routedEvent (op : BusOp) (e : BusEvent) (s : State) : Host.Outcome State Fault Refusal :=
  if otherContext op e s then .fault (.race .interleavedSequences)
  else if touchesBuffer op e.others s then .fault (.race .bufferTouched)
  else land e.others (busOp op (accessState op e s))

/-- One host bus access. -/
def busEvent (e : BusEvent) (s : State) : Host.Outcome State Fault Refusal := routedEvent (route s.params.base e.op) e s

/-- The next thing the outside does. With nothing pending the block keeps its state (R157). -/
def serve (s : State) : Host.Outcome State Fault Refusal :=
  match s.inputs with
  | [] => .next s
  | .bus e :: rest => busEvent e { s with inputs := rest }
  | .blockReset :: rest => .next (blockReset { s with inputs := rest })
  | .excluded c :: _ => .refused (.excludedCommand c)

/-- The host's CMD write of a word, by the context whose sequence is open, leaving that sequence as it is. -/
def cmdWrite (s : State) (w : Word32) : BusEvent :=
  { ctx := s.sequence.getD 0
    last := s.sequence.isNone
    op := .regWrite 0x00 4 (w.setWidth 64)
    others := [] }

/-- A host access put in front of what is pending. -/
def State.withAccess (s : State) (e : BusEvent) : State := { s with inputs := .bus e :: s.inputs }

end Sys2Proof.Machine
end

