-- ==== Sys2Proof/Machine/Step.lean ====
section
/-! DEFINITION. The step: the next host access, block reset or refused request (10_state.md R21: the block executes no stored
program, its control flow is the order in which the host issues commands). -/

namespace Sys2Proof.Machine

/-- One step. -/
def step (s : State) : Host.Outcome State Fault Refusal := serve s

/-- `s` with the host's CMD write of the word as its next input: the block fetches no instruction (R21, R66), a command is the
word written to CMD (R70). -/
def State.withFetchWord (s : State) (nbits w : Nat) : State :=
  s.withAccess (cmdWrite s (BitVec.ofNat 32 (w % 2 ^ nbits)))

end Sys2Proof.Machine
end

