-- ==== Sys2Proof/Machine/HostSyntax.lean ====
section
/-! DEFINITION. The host-side syntax of 30_encoding.md R76 and R77: statements, the assembler's check, and the pseudo-instructions'
expansions. It gives a program as a list of bus accesses. -/

namespace Sys2Proof.Machine

/-- One statement, one host bus access (R76). -/
inductive Stmt where
  | wr32 (r : Reg) (v : Word32)
  | wr64 (r : Reg) (v : Word64)
  | rd32 (r : Reg)
  | rd64 (r : Reg)
  deriving DecidableEq, Repr

/-- The check that a statement's width is its register's width, which an assembler must make (R76). -/
def Stmt.wf : Stmt → Bool
  | .wr32 r _ => r.bytes == 4
  | .wr64 r _ => r.bytes == 8
  | .rd32 r => r.bytes == 4
  | .rd64 r => r.bytes == 8

/-- The access a statement spells, at the register's offset (R76). -/
def Stmt.access : Stmt → BusOp
  | .wr32 r v => .regWrite (BitVec.ofNat 7 r.off) 4 (v.setWidth 64)
  | .wr64 r v => .regWrite (BitVec.ofNat 7 r.off) 8 v
  | .rd32 r => .regRead (BitVec.ofNat 7 r.off) 4
  | .rd64 r => .regRead (BitVec.ofNat 7 r.off) 8

/-- The assembler rejects a statement whose width does not match the register; it does not round it (R76). -/
def Stmt.assemble (x : Stmt) : Option BusOp := if x.wf then some x.access else none

/-- The command mnemonics and pseudo-instructions (R77). -/
inductive Pseudo where
  | hashCmd
  | randU64Cmd
  | randBytesCmd
  | hash (src len : Word64)
  | rand64
  | randbytes (dst len : Word64)
  | digest
  | chk
  deriving DecidableEq, Repr

/-- The exact expansions, in order (R77). -/
def Pseudo.expand : Pseudo → List Stmt
  | .hashCmd => [.wr32 .cmd 0x00000001]
  | .randU64Cmd => [.wr32 .cmd 0x00000002]
  | .randBytesCmd => [.wr32 .cmd 0x00000003]
  | .hash src len => [.wr64 .src src, .wr64 .len len, .wr32 .cmd 0x00000001]
  | .rand64 => [.wr32 .cmd 0x00000002, .rd64 .result]
  | .randbytes dst len => [.wr64 .dst dst, .wr64 .len len, .wr32 .cmd 0x00000003]
  | .digest => [.rd32 (.digest 0), .rd32 (.digest 1), .rd32 (.digest 2), .rd32 (.digest 3),
      .rd32 (.digest 4), .rd32 (.digest 5), .rd32 (.digest 6), .rd32 (.digest 7)]
  | .chk => [.rd32 .status]

/-- One host context's statements as one command sequence (R165): the last access closes it. -/
def commandSequence (ctx : Nat) : List Stmt → List Input
  | [] => []
  | [x] => [.bus { ctx := ctx, last := true, op := x.access, others := [] }]
  | x :: y :: rest =>
    .bus { ctx := ctx, last := false, op := x.access, others := [] } :: commandSequence ctx (y :: rest)

end Sys2Proof.Machine
end

