-- ==== Sys2Proof/Safety.lean ====
section
/-! DEFINITION. What counts as a safe state and a safe run. -/

namespace Sys2Proof.Machine

/-- A state is unfaulted when the block is in mode RUN: "a model treats the faulted state as never final: it refutes every claim" (R141). -/
def State.unfaulted (s : State) : Prop := s.mode = .run

/-- STATUS agrees with the mode and its reserved bits read 0 (R25, R40, R142): FAULT = 1 exactly in mode FAULTED, CAUSE is 0 while
FAULT = 0 and one of the codes 1–4 after it. -/
def State.statusWf (s : State) : Prop :=
  match s.mode with
  | .run => s.status = 0
  | .faulted => ∃ c : Cause, s.status = Status.ofCause c

/-- The invariant of the block: STATUS agrees with the mode, the sequencer is IDLE between commands (R35), and host memory is in
its one form. -/
structure State.Inv (s : State) : Prop where
  status : s.statusWf
  idle   : s.engine.phase = .idle
  mem    : Memory.wf s.mem

/-- A run of `n` steps from `s` to `s'` in which no step stops and no state is faulted. -/
inductive SafeRun : Nat → State → State → Prop where
  | done (s : State) (h : s.unfaulted) : SafeRun 0 s s
  | more (n : Nat) (s s' s'' : State) (h : s.unfaulted) (hs : step s = .next s') (hr : SafeRun n s' s'') :
      SafeRun (n + 1) s s''

end Sys2Proof.Machine
end

