-- ==== Sys2Proof/Certificates/Slice0/Obligations.lean ====
section
/-! DEFINITION. The statements for the provers. Each docstring names the rules it formalises, or says what is the model's own choice. -/

open Sys2Proof Sys2Proof.Machine

/-! ### Words used by the statements -/

/-- The primes below `n`, in order. -/
def Sys2Proof.Machine.primesBelow (n : Nat) : List Nat :=
  (List.range n).filter fun p => decide (2 ≤ p) && (List.range p).all fun d => decide (d < 2) || decide (p % d ≠ 0)

/-- The state's first input is this bus event, no other agent acts meanwhile, and no other context's command sequence is open. -/
def Sys2Proof.Machine.Quiet (s : State) (e : BusEvent) (rest : List Input) : Prop :=
  s.inputs = .bus e :: rest ∧ e.others = [] ∧ (s.sequence = none ∨ s.sequence = some e.ctx)

/-- HASH's operands are ones it executes normally (R85). -/
def Sys2Proof.Machine.HashReady (s : State) : Prop :=
  s.mode = .run ∧ s.len.toNat ≤ 2 ^ 61 - 1 ∧
    (s.len = 0 ∨ s.src.toNat + s.len.toNat ≤ 2 ^ 64 ∧ admits s.params { addr := s.src, len := s.len, kind := .read } = true)

/-- RAND_BYTES' operands are ones it executes normally (R127). -/
def Sys2Proof.Machine.FillReady (s : State) : Prop :=
  s.mode = .run ∧
    (s.len = 0 ∨ s.dst.toNat + s.len.toNat ≤ 2 ^ 64 ∧ admits s.params { addr := s.dst, len := s.len, kind := .write } = true)

/-- The message bytes of a HASH, in address order (R52). -/
def Sys2Proof.Machine.messageBytes (s : State) : List Byte :=
  (List.range s.len.toNat).map fun j => Memory.read s.mem (s.src.toNat + j)

/-- A read that R22's table allows (R23). -/
def Sys2Proof.Machine.LegalRead (o : BitVec 7) (n : Nat) : Prop :=
  o.toNat = 0x04 ∧ n = 4 ∨ (o.toNat = 0x08 ∨ o.toNat = 0x10 ∨ o.toNat = 0x18 ∨ o.toNat = 0x20) ∧ n = 8 ∨
    (0x28 ≤ o.toNat ∧ o.toNat ≤ 0x44 ∧ o.toNat % 4 = 0) ∧ n = 4

/-- A write that R22's table allows (R23). -/
def Sys2Proof.Machine.LegalWrite (o : BitVec 7) (n : Nat) : Prop :=
  o.toNat = 0x00 ∧ n = 4 ∨ (o.toNat = 0x08 ∨ o.toNat = 0x10 ∨ o.toNat = 0x18) ∧ n = 8

/-- A register access that R23 calls legal. -/
def Sys2Proof.Machine.LegalAccess (op : BusOp) : Prop :=
  (∃ o n, op = .regRead o n ∧ LegalRead o n) ∨ ∃ o n v, op = .regWrite o n v ∧ LegalWrite o n

/-- A register access that R23 calls illegal. -/
def Sys2Proof.Machine.IllegalAccess (op : BusOp) : Prop :=
  (∃ o n, op = .regRead o n ∧ ¬LegalRead o n) ∨ ∃ o n v, op = .regWrite o n v ∧ ¬LegalWrite o n

/-- A legal CMD write of this word (R24, R70). -/
def Sys2Proof.Machine.WritesCmd (op : BusOp) (w : Word32) : Prop :=
  ∃ v : Word64, op = .regWrite 0x00 4 v ∧ v.setWidth 32 = w

/-- The byte that other agents last stored to a host address outside the window, if any did. -/
def Sys2Proof.Machine.lastStore (base : Word64) (others : List AgentAccess) (a : Nat) : Option Byte :=
  ((others.filter fun x => !inWindow base x.addr && x.addr.toNat == a).filterMap fun x => x.store).getLast?

/-- One RAND_U64 from a state. -/
def Sys2Proof.Machine.afterRandU64 (s : State) : State :=
  match exec .randU64 s with
  | .next t => t
  | .fault _ => s
  | .refused _ => s

/-! ### Encoding -/

/-- R70, R72: every command's word decodes to the command. -/
def Obligations.DecodeOfEncode : Prop :=
  ∀ i : Instr, i.wf = true → decode (encode i) = .ok i ∧ CmdWord.wf (encode i) = true

/-- R72: the opcode map, and no other word is a command. -/
def Obligations.LegalCommandWords : Prop :=
  ∀ w : Word32,
    (decode w = .ok .hash ↔ w = 0x00000001) ∧ (decode w = .ok .randU64 ↔ w = 0x00000002) ∧
    (decode w = .ok .randBytes ↔ w = 0x00000003)

/-- R75: decoding is total; RSV is checked before OPC. -/
def Obligations.DecodeIsTotal : Prop :=
  ∀ w : Word32,
    (w.toNat / 256 ≠ 0 → decode w = .error .reservedBits) ∧
    (w.toNat / 256 = 0 → w.toNat % 256 = 1 → decode w = .ok .hash) ∧
    (w.toNat / 256 = 0 → w.toNat % 256 = 2 → decode w = .ok .randU64) ∧
    (w.toNat / 256 = 0 → w.toNat % 256 = 3 → decode w = .ok .randBytes) ∧
    (w.toNat / 256 = 0 → (w.toNat % 256 = 0 ∨ 4 ≤ w.toNat % 256) → decode w = .error .reservedOpcode)

/-- The table's words, written out from R70 and R72, and words that are none. -/
def Obligations.TableWordsDecode : Prop :=
  decodeTableWord 32 0x00000001 = some .hash ∧ decodeTableWord 32 0x00000002 = some .randU64 ∧
  decodeTableWord 32 0x00000003 = some .randBytes ∧ decodeTableWord 32 0x00000000 = none ∧
  decodeTableWord 32 0x00000101 = none ∧ decodeTableWord 32 0x800000FF = none

/-! ### The step -/

/-- A host's CMD write of a command's word runs that command (R24, R55, R75). The step adds the bus's acknowledgement around `exec`
and keeps the open command sequence (log entries 6, 9). -/
def Obligations.StepRunsDecodedCommand : Prop :=
  ∀ (s : State) (w : Word32) (i : Instr), decode w = .ok i →
    step (s.withFetchWord 32 w.toNat) = exec i { s with reply := .ack }

/-- R143: a legal CMD write in mode RUN of any other word raises ILLEGAL_CMD, with no other effect on the block. -/
def Obligations.IllegalWordFaults : Prop :=
  ∀ (s : State) (w : Word32), s.mode = .run → w ≠ 1 → w ≠ 2 → w ≠ 3 →
    ∃ r, step (s.withFetchWord 32 w.toNat) = .next { s with reply := r, status := 0x00000011, mode := .faulted }

/-- The model's choice (log entry 15), from R157: with nothing pending the block keeps its state. -/
def Obligations.NothingPendingKeepsState : Prop :=
  ∀ s : State, s.inputs = [] → step s = .next s

/-! ### HASH -/

/-- R85 whole: HASH_LEN_RANGE first, then BAD_BUFFER, else DIGEST0..7 are the SHA-256 words of the LEN bytes at SRC and nothing else
changes but the engine's hidden registers. -/
def Obligations.HashWritesDigestOfMessage : Prop :=
  ∀ s : State, s.mode = .run →
    (2 ^ 61 - 1 < s.len.toNat → exec .hash s = .next { s with status := 0x00000031, mode := .faulted }) ∧
    (s.len.toNat ≤ 2 ^ 61 - 1 → s.len ≠ 0 →
      (2 ^ 64 < s.src.toNat + s.len.toNat ∨ admits s.params { addr := s.src, len := s.len, kind := .read } = false) →
      exec .hash s = .next { s with status := 0x00000021, mode := .faulted }) ∧
    (HashReady s → ∃ e n,
      exec .hash s = .next { s with digest := Sha256.digestOf (messageBytes s), engine := e, hiddenCount := n })

/-- R101: the digest is a function of the LEN bytes and LEN alone, whatever the rest of the two states holds; HASH writes no
host memory, no EntropyState, no RESULT and none of SRC, LEN, DST. -/
def Obligations.HashDependsOnMessageOnly : Prop :=
  (∀ s t : State, HashReady s → HashReady t → messageBytes s = messageBytes t →
    ∃ s' t', exec .hash s = .next s' ∧ exec .hash t = .next t' ∧ s'.digest = t'.digest) ∧
  ∀ s s' : State, exec .hash s = .next s' →
    s'.mem = s.mem ∧ s'.entropy = s.entropy ∧ s'.result = s.result ∧ s'.src = s.src ∧ s'.len = s.len ∧ s'.dst = s.dst

/-- HASH's frame: on any state HASH changes DIGEST0..7 and the hidden engine, or, when it faults, STATUS and the mode; every byte of
memory reads as before. -/
def Obligations.HashFrame : Prop :=
  ∀ s t : State, exec .hash s = .next t →
    t = { s with digest := t.digest, engine := t.engine, hiddenCount := t.hiddenCount, status := t.status, mode := t.mode } ∧
    (∀ a, Memory.read t.mem a = Memory.read s.mem a) ∧
    (HashReady s → t.status = s.status ∧ t.mode = s.mode) ∧
    (¬HashReady s → t.digest = s.digest ∧ t.engine = s.engine)

/-- R102: the sequencer, started by a HASH, comes back to IDLE and leaves in H and in DIGEST0..7 what R85's pseudocode computes. -/
def Obligations.SequencerComputesDigest : Prop :=
  ∀ s : State,
    let t := seqRun (seqLength s.len.toNat) (seqStart s)
    t.engine.phase = .idle ∧ t.engine.h = Sha256.digest (messageByte s) s.len.toNat ∧ t.digest = t.engine.h

/-- R102: computing each `W[t]` just before round `t` gives what R95's whole schedule and R98's `compress` give, whatever the
engine held before. -/
def Obligations.ScheduleDuringRoundsAgrees : Prop :=
  ∀ e : HashEngine, e.compress.h = Sha256.compress e.h e.blk ∧ e.compress.w = Sha256.schedule e.blk

/-- R91–R94: the compressed blocks, laid end to end, are the message, 0x80, zeros, and the bit length in eight big-endian bytes. -/
def Obligations.PaddedMessageLayout : Prop :=
  ∀ (m : Nat → Byte) (len : Nat), len ≤ 2 ^ 61 - 1 →
    (Sha256.paddedBlocks m len).flatMap (fun b => b.toList) =
      (List.range len).map m ++ [0x80] ++
      List.replicate (if len % 64 ≤ 55 then 55 - len % 64 else 119 - len % 64) 0x00 ++
      (List.range 8).map fun k => BitVec.ofNat 8 (8 * len / 256 ^ (7 - k))

/-- R100: how many blocks a HASH compresses. -/
def Obligations.BlockCount : Prop :=
  ∀ (m : Nat → Byte) (len : Nat),
    (len % 64 ≤ 55 → (Sha256.paddedBlocks m len).length = len / 64 + 1) ∧
    (56 ≤ len % 64 → (Sha256.paddedBlocks m len).length = len / 64 + 2)

/-- R95: the schedule's first sixteen words are the block's, and each later word is the recurrence over earlier ones. -/
def Obligations.ScheduleRecurrence : Prop :=
  ∀ b : Block,
    (∀ t : Fin 16, (Sha256.schedule b).get ⟨t.val, by omega⟩ = Sha256.blockWord b t) ∧
    ∀ (t : Nat) (h : t < 64) (_ : 16 ≤ t),
      (Sha256.schedule b).get ⟨t, h⟩ =
        Sha256.smallSigma1 ((Sha256.schedule b).get ⟨t - 2, by omega⟩) + (Sha256.schedule b).get ⟨t - 7, by omega⟩ +
        Sha256.smallSigma0 ((Sha256.schedule b).get ⟨t - 15, by omega⟩) + (Sha256.schedule b).get ⟨t - 16, by omega⟩

/-- R88: each bit of Ch is `y` where `x` is 1 and `z` where `x` is 0; each bit of Maj is the majority. -/
def Obligations.ChooseAndMajorityBits : Prop :=
  ∀ (x y z : Word32) (i : Nat), i < 32 →
    (Sha256.ch x y z).getLsbD i = (if x.getLsbD i then y.getLsbD i else z.getLsbD i) ∧
    (Sha256.maj x y z).getLsbD i = decide (2 ≤ [x.getLsbD i, y.getLsbD i, z.getLsbD i].count true)

/-- R10, R89, R90: ROTR takes bit `(i + n) mod 32` to bit `i`, and the four mixing functions are the XOR of three such bits, the σ
functions' third one from a logical shift. -/
def Obligations.RotationBits : Prop :=
  (∀ (a : Word32) (n i : Nat), 0 < n → n < 32 → i < 32 → (rotr a n).getLsbD i = a.getLsbD ((i + n) % 32)) ∧
  ∀ (x : Word32) (i : Nat), i < 32 →
    (Sha256.bigSigma0 x).getLsbD i =
      (x.getLsbD ((i + 2) % 32) ^^ x.getLsbD ((i + 13) % 32) ^^ x.getLsbD ((i + 22) % 32)) ∧
    (Sha256.bigSigma1 x).getLsbD i =
      (x.getLsbD ((i + 6) % 32) ^^ x.getLsbD ((i + 11) % 32) ^^ x.getLsbD ((i + 25) % 32)) ∧
    (Sha256.smallSigma0 x).getLsbD i =
      (x.getLsbD ((i + 7) % 32) ^^ x.getLsbD ((i + 18) % 32) ^^ (decide (i + 3 < 32) && x.getLsbD (i + 3))) ∧
    (Sha256.smallSigma1 x).getLsbD i =
      (x.getLsbD ((i + 17) % 32) ^^ x.getLsbD ((i + 19) % 32) ^^ (decide (i + 10 < 32) && x.getLsbD (i + 10)))

/-- R86: `H[i]` of the IV is the first 32 bits of the fractional part of the square root of the i-th prime: `r + H[i] / 2^32` is that
root rounded down to 32 binary places. -/
def Obligations.InitialHashFromSquareRoots : Prop :=
  ∀ i : Fin 8, ∃ r : Nat,
    (r * 2 ^ 32 + (Sha256.iv.get i).toNat) ^ 2 ≤ (primesBelow 20).getD i.val 0 * 2 ^ 64 ∧
    (primesBelow 20).getD i.val 0 * 2 ^ 64 < (r * 2 ^ 32 + (Sha256.iv.get i).toNat + 1) ^ 2

/-- R87: `K[t]` is the first 32 bits of the fractional part of the cube root of the t-th prime. -/
def Obligations.RoundConstantsFromCubeRoots : Prop :=
  ∀ t : Fin 64, ∃ r : Nat,
    (r * 2 ^ 32 + (Sha256.k.get t).toNat) ^ 3 ≤ (primesBelow 312).getD t.val 0 * 2 ^ 96 ∧
    (primesBelow 312).getD t.val 0 * 2 ^ 96 < (r * 2 ^ 32 + (Sha256.k.get t).toNat + 1) ^ 3

/-- R52, R53: packing and serialisation are big-endian, and DIGESTi is the packing of its four digest bytes. -/
def Obligations.DigestSerialisation : Prop :=
  (∀ b0 b1 b2 b3 : Byte,
    (be32 b0 b1 b2 b3).toNat = b0.toNat * 2 ^ 24 + b1.toNat * 2 ^ 16 + b2.toNat * 2 ^ 8 + b3.toNat) ∧
  ∀ (x : Words8) (i : Fin 8),
    be32 (digestByte x ⟨4 * i.val, by omega⟩) (digestByte x ⟨4 * i.val + 1, by omega⟩)
      (digestByte x ⟨4 * i.val + 2, by omega⟩) (digestByte x ⟨4 * i.val + 3, by omega⟩) = x.get i

/-! ### RAND_U64 and RAND_BYTES -/

/-- R121, R123: RAND_U64 in each of the three cases of a draw. A hardware success gives `v` and leaves EntropyState; a failed or
absent hardware draw gives one fallback step, and a failed draw's `v` is discarded. -/
def Obligations.RandU64TakesOneDraw : Prop :=
  ∀ s : State, s.mode = .run →
    (∀ v, nextAnswer s = .hardware true v → exec .randU64 s = .next { takeAnswer s with result := v }) ∧
    (∀ v, nextAnswer s = .hardware false v →
      exec .randU64 s = .next { takeAnswer s with result := s.entropy.next.output, entropy := s.entropy.next }) ∧
    (nextAnswer s = .unavailable →
      exec .randU64 s = .next { takeAnswer s with result := s.entropy.next.output, entropy := s.entropy.next })

/-- R124, with R10's shifts as a product and a quotient. -/
def Obligations.FallbackStepFormula : Prop :=
  ∀ x : EntropyState,
    let t1 : Word32 := x.s3 ^^^ BitVec.ofNat 32 (x.s3.toNat * 2 ^ 11)
    let t2 : Word32 := t1 ^^^ BitVec.ofNat 32 (t1.toNat / 2 ^ 8)
    x.next.s0 = t2 ^^^ x.s0 ^^^ BitVec.ofNat 32 (x.s0.toNat / 2 ^ 19) ∧
    x.next.s1 = x.s0 ∧ x.next.s2 = x.s1 ∧ x.next.s3 = x.s2 ∧
    x.next.output.toNat = x.next.s0.toNat * 2 ^ 32 + x.next.s1.toNat

/-- R133: the all-zero state is a fixed point with output 0, for ever. -/
def Obligations.ZeroStateStaysZero : Prop :=
  ∀ n : Nat, EntropyState.next^[n] { s0 := 0, s1 := 0, s2 := 0, s3 := 0 } = { s0 := 0, s1 := 0, s2 := 0, s3 := 0 } ∧
    (EntropyState.next^[n + 1] { s0 := 0, s1 := 0, s2 := 0, s3 := 0 }).output = 0

/-- Derived from R124: the fallback step loses no state, so a seed that is not all zero never runs into the all-zero state. -/
def Obligations.FallbackStepIsInjective : Prop :=
  Function.Injective EntropyState.next ∧
  ∀ (x : EntropyState) (n : Nat), x ≠ { s0 := 0, s1 := 0, s2 := 0, s3 := 0 } →
    EntropyState.next^[n] x ≠ { s0 := 0, s1 := 0, s2 := 0, s3 := 0 }

/-- R125: after any number of draws, EntropyState is the fallback step applied once for each draw that fell back. -/
def Obligations.FallbackDrawsAloneChangeEntropy : Prop :=
  ∀ (s : State) (n : Nat),
    (drawMany n s).entropy =
      EntropyState.next^[(List.range n).countP fun k => (nextAnswer (drawMany k s)).fallsBack] s.entropy

/-- R130: while the probe answers 0 on every draw, the k-th RAND_U64 gives the k-th fallback output from the state's EntropyState. -/
def Obligations.FallbackSequenceReproducible : Prop :=
  ∀ (s : State) (k : Nat), s.mode = .run → (∀ j ≤ k, nextAnswer (drawMany j s) = .unavailable) →
    ∃ t, exec .randU64 (afterRandU64^[k] s) = .next t ∧ t.result = (EntropyState.next^[k + 1] s.entropy).output ∧
      t.entropy = EntropyState.next^[k + 1] s.entropy

/-- RAND_U64's frame: RESULT, EntropyState and the port's answers; every byte of memory reads as before. -/
def Obligations.RandU64Frame : Prop :=
  ∀ s t : State, exec .randU64 s = .next t →
    t = { s with result := t.result, entropy := t.entropy, rngScript := t.rngScript, draws := t.draws } ∧
    ∀ a, Memory.read t.mem a = Memory.read s.mem a

/-- R127 with R54 and R60: RAND_BYTES fills `DST .. DST+LEN−1` with the little-endian bytes of its draws, writes no other byte, makes
`ceil(LEN / 8)` draws, and changes nothing else. -/
def Obligations.RandBytesFillsBuffer : Prop :=
  ∀ s : State, FillReady s → s.mem.Pairwise (fun x y => x.1 < y.1) →
    ∃ m, exec .randBytes s = .next { drawMany ((s.len.toNat + 7) / 8) s with mem := m } ∧
      (∀ q k, k < 8 → 8 * q + k < s.len.toNat →
        Memory.read m (s.dst.toNat + (8 * q + k)) = byteOf (drawValue (drawMany q s)) k) ∧
      ∀ a, a < s.dst.toNat ∨ s.dst.toNat + s.len.toNat ≤ a → Memory.read m a = Memory.read s.mem a

/-- R127's corner case (D12): LEN = 0 makes no draw and no write, and ignores DST. -/
def Obligations.RandBytesOfNothing : Prop :=
  ∀ s : State, s.mode = .run → s.len = 0 → exec .randBytes s = .next s

/-- R128: RAND_BYTES of N bytes leaves EntropyState and the port as `ceil(N / 8)` RAND_U64 commands would, and its buffer holds the
little-endian bytes of their results, cut to N. -/
def Obligations.RandBytesMatchesRandU64s : Prop :=
  ∀ s : State, FillReady s → s.mem.Pairwise (fun x y => x.1 < y.1) →
    ∃ t, exec .randBytes s = .next t ∧
      t.entropy = (afterRandU64^[(s.len.toNat + 7) / 8] s).entropy ∧
      t.rngScript = (afterRandU64^[(s.len.toNat + 7) / 8] s).rngScript ∧
      t.draws = (afterRandU64^[(s.len.toNat + 7) / 8] s).draws ∧
      ∀ j, j < s.len.toNat →
        Memory.read t.mem (s.dst.toNat + j) = byteOf (afterRandU64^[j / 8 + 1] s).result (j % 8)

/-- RAND_BYTES' frame: the buffer's bytes, EntropyState and the port's answers, or, when it faults, STATUS and the mode alone. -/
def Obligations.RandBytesFrame : Prop :=
  ∀ s t : State, exec .randBytes s = .next t → s.mem.Pairwise (fun x y => x.1 < y.1) →
    t = { s with mem := t.mem, entropy := t.entropy, rngScript := t.rngScript, draws := t.draws, status := t.status, mode := t.mode } ∧
    (∀ a, a < s.dst.toNat ∨ s.dst.toNat + s.len.toNat ≤ a → Memory.read t.mem a = Memory.read s.mem a) ∧
    (FillReady s → t.status = s.status ∧ t.mode = s.mode) ∧
    (¬FillReady s → t = { s with status := t.status, mode := t.mode })

/-- R132: a HASH that ran leaves the draw sequence alone, and no draw touches DIGEST0..7. -/
def Obligations.HashAndDrawsIndependent : Prop :=
  (∀ s t : State, HashReady s → exec .hash s = .next t →
    t.entropy = s.entropy ∧ ∃ u v, exec .randU64 t = .next u ∧ exec .randU64 s = .next v ∧
      u.result = v.result ∧ u.entropy = v.entropy) ∧
  ∀ s t : State, (exec .randU64 s = .next t ∨ exec .randBytes s = .next t) → t.digest = s.digest ∧ t.engine = s.engine

/-! ### Faults and modes -/

/-- R141, R142: fault entry writes STATUS and the mode, nothing else, with the code of its cause. -/
def Obligations.FaultEntryCodes : Prop :=
  ∀ s : State, s.mode = .run →
    raiseFault .illegalCmd s = { s with status := 0x00000011, mode := .faulted } ∧
    raiseFault .badBuffer s = { s with status := 0x00000021, mode := .faulted } ∧
    raiseFault .hashLenRange s = { s with status := 0x00000031, mode := .faulted } ∧
    raiseFault .badRegAccess s = { s with status := 0x00000041, mode := .faulted }

/-- R144: BAD_BUFFER from HASH (of a legal length) and from RAND_BYTES; RAND_U64 leaves STATUS alone. -/
def Obligations.BadBufferFaults : Prop :=
  (∀ s : State, s.mode = .run → s.len ≠ 0 → s.len.toNat ≤ 2 ^ 61 - 1 →
    (2 ^ 64 < s.src.toNat + s.len.toNat ∨ admits s.params { addr := s.src, len := s.len, kind := .read } = false) →
    exec .hash s = .next { s with status := 0x00000021, mode := .faulted }) ∧
  (∀ s : State, s.mode = .run → s.len ≠ 0 →
    (2 ^ 64 < s.dst.toNat + s.len.toNat ∨ admits s.params { addr := s.dst, len := s.len, kind := .write } = false) →
    exec .randBytes s = .next { s with status := 0x00000021, mode := .faulted }) ∧
  (∀ s : State, s.mode = .run → ∃ t, exec .randU64 s = .next t ∧ t.status = s.status ∧ t.mode = .run) ∧
  ∀ (p : Params) (b : Buffer) (k j : Nat), k < 0x80 → j < b.len.toNat →
    b.addr + BitVec.ofNat 64 j = p.base + BitVec.ofNat 64 k → admits p b = false

/-- R31, R148: in mode FAULTED every command is ignored; of a register access only the bus's answer is left, a legal read's being
the register's value. -/
def Obligations.FaultedBlockIgnoresAccesses : Prop :=
  (∀ (s : State) (i : Instr), s.mode = .faulted → exec i s = .next s) ∧
  ∀ (s : State) (e : BusEvent) (rest : List Input), s.mode = .faulted → Quiet s e rest →
    (∀ o n v, e.op = .regWrite o n v →
      ∃ q r, step s = .next { s with inputs := rest, sequence := q, reply := r }) ∧
    (∀ o n t, e.op = .regRead o n → step s = .next t →
      t = { s with inputs := rest, sequence := t.sequence, reply := t.reply }) ∧
    ∀ r : Reg, r.readable = true → (Status.cause s.status).toNat ≤ 4 →
      e.op = .regRead (BitVec.ofNat 7 r.off) r.bytes →
      ∃ q, step s = .next { s with inputs := rest, sequence := q, reply := r.value s }

/-- R148: FAULTED is left only by reset, STATUS keeps the first cause, and no register, EntropyState or engine changes: CMD writes do
nothing, and writes of SRC, LEN and DST are ignored. Host memory changes by the host's or other agents' own stores alone. -/
def Obligations.FirstFaultIsKept : Prop :=
  ∀ s t : State, s.mode = .faulted → (∀ rest, s.inputs ≠ .blockReset :: rest) → step s = .next t →
    t = { s with mem := t.mem, inputs := t.inputs, reply := t.reply, sequence := t.sequence } ∧
    ∀ e rest, s.inputs = .bus e :: rest → (∀ a v, e.op ≠ .memWrite a v) → (∀ x ∈ e.others, x.store = none) → t.mem = s.mem

/-- R149: the two races (how contexts, sequences and other agents are held is the model's choice, log entries 7, 8, 13). A legal
access by another context than the one whose command sequence is open is RACE in both modes. -/
def Obligations.RacesAreFaults : Prop :=
  (∀ (s : State) (e : BusEvent) (rest : List Input) (c : Nat),
    s.inputs = .bus e :: rest → s.sequence = some c → c ≠ e.ctx → LegalAccess e.op →
    step s = .fault (.race .interleavedSequences)) ∧
  ∀ (s : State) (e : BusEvent) (rest : List Input) (x : AgentAccess),
    s.inputs = .bus e :: rest → (s.sequence = none ∨ s.sequence = some e.ctx) → x ∈ e.others →
    (HashReady s → WritesCmd e.op 0x00000001 → x.store ≠ none →
      s.src.toNat ≤ x.addr.toNat → x.addr.toNat < s.src.toNat + s.len.toNat →
      step s = .fault (.race .bufferTouched)) ∧
    (FillReady s → WritesCmd e.op 0x00000003 →
      s.dst.toNat ≤ x.addr.toNat → x.addr.toNat < s.dst.toNat + s.len.toNat →
      step s = .fault (.race .bufferTouched))

/-- R149: a step stops with RACE in its two cases alone, and with no other fault (contexts, sequences and other agents as log entries
7, 8, 13 hold them). -/
def Obligations.OnlyRacesStop : Prop :=
  ∀ (s : State) (r : Fault), step s = .fault r →
    ∃ e rest, s.inputs = .bus e :: rest ∧
      (r = .race .interleavedSequences ∧ (∃ c, s.sequence = some c ∧ c ≠ e.ctx) ∧ LegalAccess e.op ∨
       r = .race .bufferTouched ∧ (s.sequence = none ∨ s.sequence = some e.ctx) ∧ ∃ x ∈ e.others,
        (HashReady s ∧ WritesCmd e.op 0x00000001 ∧ x.store ≠ none ∧
          s.src.toNat ≤ x.addr.toNat ∧ x.addr.toNat < s.src.toNat + s.len.toNat ∨
         FillReady s ∧ WritesCmd e.op 0x00000003 ∧
          s.dst.toNat ≤ x.addr.toNat ∧ x.addr.toNat < s.dst.toNat + s.len.toNat))

/-- The model's choice (log entry 8), from R55: an access that races with nothing does what it does with no other agent about, and then
what the other agents did takes effect: outside the window each address holds the byte last stored to it, and an access inside the
window, which is one byte wide and so illegal (R23), raises BAD_REG_ACCESS (R146), which in mode FAULTED changes nothing (R148). -/
def Obligations.OtherAgentsTakeEffectAfterwards : Prop :=
  ∀ (s t : State) (e : BusEvent) (rest : List Input), Memory.wf s.mem → s.inputs = .bus e :: rest → (∀ r, step s ≠ .fault r) →
    step { s with inputs := .bus { e with others := [] } :: rest } = .next t →
    ∃ u, step s = .next u ∧ u = { t with mem := u.mem, status := u.status, mode := u.mode } ∧
      (∀ a, Memory.read u.mem a = (lastStore s.params.base e.others a).getD (Memory.read t.mem a)) ∧
      (t.mode = .run → (∃ x ∈ e.others, inWindow s.params.base x.addr = true) → u.status = 0x00000041 ∧ u.mode = .faulted) ∧
      ((t.mode = .faulted ∨ ∀ x ∈ e.others, inWindow s.params.base x.addr = false) → u.status = t.status ∧ u.mode = t.mode)

/-- R55, D26: with one host context and no other agent every access completes, in every state that meets the invariant. -/
def Obligations.SingleHostAccessCompletes : Prop :=
  ∀ (s : State) (e : BusEvent) (rest : List Input), s.Inv → Quiet s e rest → ∃ t, step s = .next t ∧ t.inputs = rest

/-! ### Registers -/

/-- R22–R30: what each legal read answers, in either mode; nothing else of the block changes. -/
def Obligations.RegisterReadsReturnValues : Prop :=
  ∀ (s : State) (e : BusEvent) (rest : List Input), Quiet s e rest →
    (e.op = .regRead 0x04 4 → (Status.cause s.status).toNat ≤ 4 →
      ∃ q, step s = .next { s with inputs := rest, sequence := q, reply := .word32 s.status }) ∧
    (e.op = .regRead 0x08 8 → ∃ q, step s = .next { s with inputs := rest, sequence := q, reply := .word64 s.src }) ∧
    (e.op = .regRead 0x10 8 → ∃ q, step s = .next { s with inputs := rest, sequence := q, reply := .word64 s.len }) ∧
    (e.op = .regRead 0x18 8 → ∃ q, step s = .next { s with inputs := rest, sequence := q, reply := .word64 s.dst }) ∧
    (e.op = .regRead 0x20 8 → ∃ q, step s = .next { s with inputs := rest, sequence := q, reply := .word64 s.result }) ∧
    ∀ i : Fin 8, e.op = .regRead (BitVec.ofNat 7 (0x28 + 4 * i.val)) 4 →
      ∃ q, step s = .next { s with inputs := rest, sequence := q, reply := .word32 (s.digest.get i) }

/-- R26–R28: a write of SRC, LEN or DST in mode RUN stores any 64-bit value and changes nothing else of the block and no memory; the
value reads back unchanged; and no command writes the three. -/
def Obligations.OperandRegistersReadBack : Prop :=
  (∀ (s : State) (e : BusEvent) (rest : List Input) (v : Word64), s.mode = .run → Quiet s e rest →
    (e.op = .regWrite 0x08 8 v → ∃ q r, step s = .next { s with inputs := rest, sequence := q, reply := r, src := v }) ∧
    (e.op = .regWrite 0x10 8 v → ∃ q r, step s = .next { s with inputs := rest, sequence := q, reply := r, len := v }) ∧
    (e.op = .regWrite 0x18 8 v → ∃ q r, step s = .next { s with inputs := rest, sequence := q, reply := r, dst := v })) ∧
  (∀ (s : State) (e e' : BusEvent) (rest : List Input) (v : Word64), s.mode = .run → Quiet s e (.bus e' :: rest) →
    e'.others = [] → e'.ctx = e.ctx →
    (e.op = .regWrite 0x08 8 v → e'.op = .regRead 0x08 8 → ∃ t u, step s = .next t ∧ t.src = v ∧ t.len = s.len ∧ t.dst = s.dst ∧
      step t = .next u ∧ u.reply = .word64 v) ∧
    (e.op = .regWrite 0x10 8 v → e'.op = .regRead 0x10 8 → ∃ t u, step s = .next t ∧ t.len = v ∧ t.src = s.src ∧ t.dst = s.dst ∧
      step t = .next u ∧ u.reply = .word64 v) ∧
    (e.op = .regWrite 0x18 8 v → e'.op = .regRead 0x18 8 → ∃ t u, step s = .next t ∧ t.dst = v ∧ t.src = s.src ∧ t.len = s.len ∧
      step t = .next u ∧ u.reply = .word64 v)) ∧
  ∀ (i : Instr) (s t : State), exec i s = .next t → t.src = s.src ∧ t.len = s.len ∧ t.dst = s.dst

/-- R23, R146: every access but the legal ones of R22's table raises BAD_REG_ACCESS in mode RUN and changes no register, whichever
context makes it and whatever command sequence is open. -/
def Obligations.IllegalAccessFaults : Prop :=
  ∀ (s : State) (e : BusEvent) (rest : List Input), s.mode = .run → s.inputs = .bus e :: rest → e.others = [] → IllegalAccess e.op →
    ∃ q r, step s = .next { s with inputs := rest, sequence := q, reply := r, status := 0x00000041, mode := .faulted }

/-- R147: legality before anything else, so an illegal access by another context is no RACE and an illegal CMD access is never
decoded; then, for a legal CMD write, ILLEGAL_CMD, HASH_LEN_RANGE, BAD_BUFFER. Each access raises one fault, with all else of the block
as it was. -/
def Obligations.ChecksInPriorityOrder : Prop :=
  ∀ (s : State) (e : BusEvent) (rest : List Input), s.mode = .run → s.inputs = .bus e :: rest → e.others = [] →
    (IllegalAccess e.op →
      ∃ q r, step s = .next { s with inputs := rest, sequence := q, reply := r, status := 0x00000041, mode := .faulted }) ∧
    ((s.sequence = none ∨ s.sequence = some e.ctx) →
      (∀ w, WritesCmd e.op w → w ≠ 1 → w ≠ 2 → w ≠ 3 →
        ∃ q r, step s = .next { s with inputs := rest, sequence := q, reply := r, status := 0x00000011, mode := .faulted }) ∧
      (WritesCmd e.op 1 → 2 ^ 61 - 1 < s.len.toNat →
        ∃ q r, step s = .next { s with inputs := rest, sequence := q, reply := r, status := 0x00000031, mode := .faulted }) ∧
      (WritesCmd e.op 1 → s.len.toNat ≤ 2 ^ 61 - 1 → s.len ≠ 0 →
        (2 ^ 64 < s.src.toNat + s.len.toNat ∨ admits s.params { addr := s.src, len := s.len, kind := .read } = false) →
        ∃ q r, step s = .next { s with inputs := rest, sequence := q, reply := r, status := 0x00000021, mode := .faulted }) ∧
      (WritesCmd e.op 3 → s.len ≠ 0 →
        (2 ^ 64 < s.dst.toNat + s.len.toNat ∨ admits s.params { addr := s.dst, len := s.len, kind := .write } = false) →
        ∃ q r, step s = .next { s with inputs := rest, sequence := q, reply := r, status := 0x00000021, mode := .faulted }))

/-- R51, R23: a byte access by memory address that falls into the window is an 8-bit register access, which is illegal, whichever
context makes it; it is no part of a command sequence, so the open one stays; in mode FAULTED it changes nothing (the routing and the
note of the open sequence are the model's choice, log entries 7 and 19). -/
def Obligations.ByteAccessInWindowFaults : Prop :=
  ∀ (s : State) (e : BusEvent) (rest : List Input) (k : Nat), s.inputs = .bus e :: rest → e.others = [] → k < 0x80 →
    (e.op = .memRead (s.params.base + BitVec.ofNat 64 k) ∨ ∃ v, e.op = .memWrite (s.params.base + BitVec.ofNat 64 k) v) →
    (s.mode = .run → ∃ r, step s = .next { s with inputs := rest, reply := r, status := 0x00000041, mode := .faulted }) ∧
    (s.mode = .faulted → ∃ r, step s = .next { s with inputs := rest, reply := r })

/-- R29, R30: RESULT changes only on a RAND_U64 and DIGEST0..7 only on a HASH, or by reset. -/
def Obligations.ResultRegistersChangeOnlyByTheirCommand : Prop :=
  ∀ s t : State, step s = .next t →
    (t.result ≠ s.result → (∃ rest, s.inputs = .blockReset :: rest) ∨
      ∃ e rest v, s.inputs = .bus e :: rest ∧ e.op = .regWrite 0x00 4 v ∧ v.setWidth 32 = (0x00000002 : Word32)) ∧
    (t.digest ≠ s.digest → (∃ rest, s.inputs = .blockReset :: rest) ∨
      ∃ e rest v, s.inputs = .bus e :: rest ∧ e.op = .regWrite 0x00 4 v ∧ v.setWidth 32 = (0x00000001 : Word32))

/-- R161: no step but a reset changes EntropyState otherwise than by one fallback step for each of its draws whose answer falls back,
and only the CMD write of RAND_U64's or RAND_BYTES' word makes draws. -/
def Obligations.OnlyFallbackDrawsWriteEntropy : Prop :=
  ∀ s t : State, (∀ rest, s.inputs ≠ .blockReset :: rest) → step s = .next t →
    s.draws ≤ t.draws ∧
    t.entropy =
      EntropyState.next^[(List.range (t.draws - s.draws)).countP fun j => (nextAnswer (drawMany j s)).fallsBack] s.entropy ∧
    (t.draws ≠ s.draws → ∃ e rest, s.inputs = .bus e :: rest ∧
      (WritesCmd e.op 0x00000002 ∨ WritesCmd e.op 0x00000003))

/-- R59, R60: host memory changes only by a host store, another agent's store, or RAND_BYTES. -/
def Obligations.MemoryChangesOnlyByStoresAndFill : Prop :=
  ∀ s t : State, step s = .next t → t.mem ≠ s.mem → ∃ e rest, s.inputs = .bus e :: rest ∧
    ((∃ a v, e.op = .memWrite a v) ∨ WritesCmd e.op 0x00000003 ∨ ∃ x ∈ e.others, x.store ≠ none)

/-! ### Reset, memory, invariants -/

/-- R160: what a block reset leaves, from any state; and the machine right after reset has the same values, with Config's seed. -/
def Obligations.ResetValues : Prop :=
  (∀ (s : State) (rest : List Input), s.inputs = .blockReset :: rest →
    ∃ t, step s = .next t ∧ t.mode = .run ∧ t.status = 0 ∧ t.src = 0 ∧ t.len = 0 ∧ t.dst = 0 ∧ t.result = 0 ∧
      (∀ i : Fin 8, t.digest.get i = 0) ∧ t.entropy.s0 = s.params.seed[0] ∧ t.entropy.s1 = s.params.seed[1] ∧
      t.entropy.s2 = s.params.seed[2] ∧ t.entropy.s3 = s.params.seed[3] ∧ t.engine.phase = .idle ∧ t.entropyPhase = .ready) ∧
  (State.reset.mode = .run ∧ State.reset.status = 0 ∧ State.reset.src = 0 ∧ State.reset.len = 0 ∧ State.reset.dst = 0 ∧
    State.reset.result = 0 ∧ (∀ i : Fin 8, State.reset.digest.get i = 0) ∧
    State.reset.entropy.s0 = State.reset.params.seed[0] ∧ State.reset.entropy.s1 = State.reset.params.seed[1] ∧
    State.reset.entropy.s2 = State.reset.params.seed[2] ∧ State.reset.entropy.s3 = State.reset.params.seed[3] ∧
    State.reset.engine.phase = .idle ∧ State.reset.entropyPhase = .ready)

/-- R63: outside the window a host store is seen by the host's next load, and changes no other byte. -/
def Obligations.HostStoreThenLoad : Prop :=
  ∀ (s : State) (e e' : BusEvent) (rest : List Input) (a : Word64) (v : Byte),
    s.mem.Pairwise (fun x y => x.1 < y.1) → inWindow s.params.base a = false →
    s.inputs = .bus e :: .bus e' :: rest → e.others = [] → e'.others = [] →
    e.op = .memWrite a v → e'.op = .memRead a →
    ∃ t u, step s = .next t ∧ step t = .next u ∧ u.reply = .byte v ∧
      ∀ b, b ≠ a.toNat → Memory.read u.mem b = Memory.read s.mem b

/-- Every step keeps the invariant: STATUS agrees with the mode and its reserved bits read 0 (R25, R40, R142), the sequencer is IDLE
between commands (R35), and host memory keeps its one form. -/
def Obligations.StepKeepsInvariant : Prop :=
  ∀ s t : State, s.Inv → step s = .next t → t.Inv

/-- The machine right after reset meets the invariant. -/
def Obligations.ResetMeetsInvariant : Prop := State.reset.Inv

/-- R25, R40 read off the invariant: FAULT = 1 exactly in mode FAULTED, the reserved bits are 0, CAUSE is 0 while FAULT = 0 and 1 to 4
after it. -/
def Obligations.StatusFieldsUnderInvariant : Prop :=
  ∀ s : State, s.Inv →
    (Status.faultBit s.status = true ↔ s.mode = .faulted) ∧ Status.reserved s.status = 0 ∧
    (Status.faultBit s.status = false → Status.cause s.status = 0) ∧
    (Status.faultBit s.status = true → 1 ≤ (Status.cause s.status).toNat ∧ (Status.cause s.status).toNat ≤ 4)

/-- R7: the parameters are fixed for the whole run. -/
def Obligations.ParametersAreFixed : Prop :=
  ∀ s t : State, step s = .next t → t.params = s.params

/-- A safe run keeps the invariant and ends unfaulted (R141). -/
def Obligations.SafeRunKeepsInvariant : Prop :=
  ∀ (n : Nat) (s t : State), s.Inv → SafeRun n s t → t.Inv ∧ t.unfaulted

/-! ### Refusals and the host's syntax -/

/-- R74: a command the block does not have is refused by name. -/
def Obligations.ExcludedCommandsRefused : Prop :=
  ∀ (s : State) (c : ExcludedCommand) (rest : List Input), s.inputs = .excluded c :: rest →
    step s = .refused (.excludedCommand c)

/-- I11: a read of STATUS that would show a reserved cause code is refused. -/
def Obligations.ReservedCauseRefused : Prop :=
  ∀ (s : State) (e : BusEvent) (rest : List Input), Quiet s e rest → e.op = .regRead 0x04 4 →
    4 < (Status.cause s.status).toNat → step s = .refused (.reservedCause (Status.cause s.status))

/-- R76, R77: every pseudo-instruction's expansion assembles, into accesses that R23 calls legal. -/
def Obligations.PseudoInstructionsAssemble : Prop :=
  ∀ (p : Pseudo) (x : Stmt), x ∈ p.expand → ∃ op, x.assemble = some op ∧
    ((∃ o n, op = .regRead o n ∧ (Reg.forRead o n).isSome) ∨ ∃ o n v, op = .regWrite o n v ∧ (Reg.forWrite o n).isSome)
end

