-- ==== Sys2Proof/Laws/Memory.lean ====
section
/-! SUPPORT. The laws of host memory: a read after a write, the other addresses, and the one form that every write keeps. -/

namespace Sys2Proof.Machine.Memory

@[simp] theorem read_nil (a : Nat) : read [] a = blank := rfl

/-- An address below every listed one is not listed. -/
theorem read_of_lt {m : List Host.Cell} {a : Nat} (h : ∀ c ∈ m, a < c.1) : read m a = blank := by
  induction m with
  | nil => rfl
  | cons c rest ih =>
    have hc := h c (by simp)
    have : c.1 ≠ a := by omega
    simp only [read, this, if_false]
    exact ih fun d hd => h d (by simp [hd])

theorem read_cell (a : Nat) (v : Byte) (rest : List Host.Cell) (b : Nat) (h : read rest a = blank) :
    read (cell a v rest) b = if b = a then v else read rest b := by
  unfold cell
  by_cases hv : v = blank
  · by_cases hb : b = a
    · simp [hv, hb, h]
    · simp [hv, hb]
  · by_cases hb : b = a
    · simp [hv, hb, read]
    · simp [hv, hb, read, Ne.symm hb]

/-- A read after a write: the byte written at its address, the old byte everywhere else. -/
theorem read_write {m : List Host.Cell} (hm : m.Pairwise (fun x y => x.1 < y.1)) (a : Nat) (v : Byte) (b : Nat) :
    read (write m a v) b = if b = a then v else read m b := by
  induction m with
  | nil => exact read_cell a v [] b rfl
  | cons c rest ih =>
    obtain ⟨k, x⟩ := c
    rw [List.pairwise_cons] at hm
    simp only [write]
    split
    · rename_i hak
      refine read_cell a v _ b (read_of_lt ?_)
      intro d hd
      rcases List.mem_cons.1 hd with rfl | hd
      · exact hak
      · have := hm.1 d hd
        simp only at this
        omega
    · split
      · rename_i _ hak
        subst hak
        rw [read_cell a v rest b (read_of_lt hm.1)]
        by_cases hb : b = a
        · simp [hb]
        · simp [hb, read, Ne.symm hb]
      · rename_i _ hak
        simp only [read, ih hm.2]
        by_cases hkb : k = b
        · subst hkb
          simp [Ne.symm hak]
        · simp [hkb]

theorem mem_write {m : List Host.Cell} {a : Nat} {v : Byte} {c : Host.Cell} (h : c ∈ write m a v) :
    c ∈ m ∨ c = (a, v) ∧ v ≠ blank := by
  induction m with
  | nil =>
    simp only [write, cell] at h
    split at h <;> simp_all
  | cons d rest ih =>
    obtain ⟨k, x⟩ := d
    simp only [write, cell] at h
    split at h
    · split at h <;> (simp_all; try tauto)
    · split at h
      · split at h <;> (simp_all; try tauto)
      · rcases List.mem_cons.1 h with h | h
        · exact .inl (by simp [h])
        · rcases ih h with h | h
          · exact .inl (by simp [h])
          · exact .inr h

theorem write_rising {m : List Host.Cell} (hm : m.Pairwise (fun x y => x.1 < y.1)) (a : Nat) (v : Byte) :
    (write m a v).Pairwise (fun x y => x.1 < y.1) := by
  induction m with
  | nil => simp only [write, cell]; split <;> simp
  | cons d rest ih =>
    obtain ⟨k, x⟩ := d
    have hm' := hm
    rw [List.pairwise_cons] at hm
    simp only [write, cell]
    split
    · rename_i hak
      split
      · exact hm'
      · rw [List.pairwise_cons]
        refine ⟨fun c hc => ?_, hm'⟩
        rcases List.mem_cons.1 hc with rfl | hc
        · exact hak
        · have := hm.1 c hc
          simp only at this ⊢
          omega
    · split
      · rename_i _ hak
        split
        · exact hm.2
        · rw [List.pairwise_cons]
          exact ⟨fun c hc => by have := hm.1 c hc; simp only at this ⊢; omega, hm.2⟩
      · rename_i h1 h2
        rw [List.pairwise_cons]
        refine ⟨fun c hc => ?_, ih hm.2⟩
        rcases mem_write hc with hc | ⟨rfl, _⟩
        · exact hm.1 c hc
        · simp only; omega

/-- Every write inside the address space keeps the one form. -/
theorem write_wf {m : List Host.Cell} (hm : wf m) {a : Nat} (ha : a < 2 ^ Config.addrWidth) (v : Byte) : wf (write m a v) := by
  refine ⟨write_rising hm.1 a v, fun c hc => ?_⟩
  rcases mem_write hc with hc | ⟨rfl, hv⟩
  · exact hm.2 c hc
  · exact ⟨hv, ha⟩

theorem writeLE_wf {m : List Host.Cell} (hm : wf m) (a : Nat) (v : Word64) :
    ∀ c, a + c ≤ 2 ^ Config.addrWidth → wf (writeLE m a v c)
  | 0, _ => hm
  | c + 1, h => write_wf (writeLE_wf hm a v c (by omega)) (by omega) _

theorem writeLE_rising {m : List Host.Cell} (hm : m.Pairwise (fun x y => x.1 < y.1)) (a : Nat) (v : Word64) :
    ∀ c, (writeLE m a v c).Pairwise (fun x y => x.1 < y.1)
  | 0 => hm
  | c + 1 => write_rising (writeLE_rising hm a v c) _ _

/-- A read after a little-endian store of `c` bytes. -/
theorem read_writeLE {m : List Host.Cell} (hm : m.Pairwise (fun x y => x.1 < y.1)) (a : Nat) (v : Word64) (b : Nat) :
    ∀ c, read (writeLE m a v c) b = if a ≤ b ∧ b < a + c then byteOf v (b - a) else read m b
  | 0 => by
    simp [writeLE]
  | c + 1 => by
    simp only [writeLE]
    rw [read_write (writeLE_rising hm a v c), read_writeLE hm a v b c]
    by_cases hb : b = a + c
    · subst hb
      simp
    · by_cases h : a ≤ b ∧ b < a + c
      · have h' : a ≤ b ∧ b < a + (c + 1) := by omega
        simp [hb, h, h']
      · have h' : ¬(a ≤ b ∧ b < a + (c + 1)) := by omega
        simp [hb, h, h']

theorem read_cons_of_ne {k a : Nat} (x : Byte) (m : List Host.Cell) (h : k ≠ a) : read ((k, x) :: m) a = read m a := by
  simp [read, h]

/-- Equal memories are equal data: two memories in the one form that read alike are the same list. -/
theorem ext_of_read {m n : List Host.Cell} (hm : wf m) (hn : wf n) (h : ∀ a, read m a = read n a) : m = n := by
  induction m generalizing n with
  | nil =>
    cases n with
    | nil => rfl
    | cons d n =>
      have := h d.1
      simp only [read, if_true] at this
      exact absurd this.symm (hn.2 d (by simp)).1
  | cons c m ih =>
    obtain ⟨k, x⟩ := c
    have hm1 := List.pairwise_cons.1 hm.1
    cases n with
    | nil =>
      have := h k
      simp only [read, if_true] at this
      exact absurd this (hm.2 (k, x) (by simp)).1
    | cons d n =>
      obtain ⟨l, y⟩ := d
      have hn1 := List.pairwise_cons.1 hn.1
      have hx : x ≠ blank := (hm.2 (k, x) (by simp)).1
      have hy : y ≠ blank := (hn.2 (l, y) (by simp)).1
      have hkl : k = l := by
        by_contra hne
        rcases Nat.lt_or_gt_of_ne hne with hlt | hlt
        · have hn0 : read n k = blank := read_of_lt fun c hc => by
            have := hn1.1 c hc
            simp only at this
            omega
          have := h k
          rw [read_cons_of_ne y n (by omega), hn0] at this
          simp only [read, if_true] at this
          exact hx this
        · have hm0 : read m l = blank := read_of_lt fun c hc => by
            have := hm1.1 c hc
            simp only at this
            omega
          have := h l
          rw [read_cons_of_ne x m (by omega), hm0] at this
          simp only [read, if_true] at this
          exact hy this.symm
      subst hkl
      have hxy : x = y := by simpa [read] using h k
      subst hxy
      have : m = n := by
        refine ih ⟨hm1.2, fun c hc => hm.2 c (by simp [hc])⟩ ⟨hn1.2, fun c hc => hn.2 c (by simp [hc])⟩ fun a => ?_
        by_cases ha : k = a
        · subst ha
          rw [read_of_lt hm1.1, read_of_lt hn1.1]
        · have := h a
          rwa [read_cons_of_ne x m ha, read_cons_of_ne x n ha] at this
      rw [this]

end Sys2Proof.Machine.Memory
end

