-- ==== Sys2Proof/Laws/Ops.lean ====
section
/-! SUPPORT. What the shared operations of Machine/Ops.lean and Machine/Window.lean can do, said once. -/

namespace Sys2Proof.Machine

/-! ### Fault entry -/

theorem raiseFault_run {s : State} (h : s.mode = .run) (c : Cause) :
    raiseFault c s = { s with status := Status.ofCause c, mode := .faulted } := by
  simp [raiseFault, h]

theorem raiseFault_faulted {s : State} (h : s.mode = .faulted) (c : Cause) : raiseFault c s = s := by
  simp [raiseFault, h]

/-- Fault entry writes STATUS and the mode and nothing else. -/
theorem raiseFault_frame (c : Cause) (s : State) :
    raiseFault c s = { s with status := (raiseFault c s).status, mode := (raiseFault c s).mode } := by
  unfold raiseFault
  split <;> rfl

/-- After fault entry the block is in mode FAULTED. -/
theorem raiseFault_mode (c : Cause) (s : State) : (raiseFault c s).mode = .faulted := by
  unfold raiseFault
  split
  · rfl
  · assumption

@[simp] theorem raiseFault_params (c : Cause) (s : State) : (raiseFault c s).params = s.params := by rw [raiseFault_frame]
@[simp] theorem raiseFault_src (c : Cause) (s : State) : (raiseFault c s).src = s.src := by rw [raiseFault_frame]
@[simp] theorem raiseFault_len (c : Cause) (s : State) : (raiseFault c s).len = s.len := by rw [raiseFault_frame]
@[simp] theorem raiseFault_dst (c : Cause) (s : State) : (raiseFault c s).dst = s.dst := by rw [raiseFault_frame]
@[simp] theorem raiseFault_result (c : Cause) (s : State) : (raiseFault c s).result = s.result := by rw [raiseFault_frame]
@[simp] theorem raiseFault_digest (c : Cause) (s : State) : (raiseFault c s).digest = s.digest := by rw [raiseFault_frame]
@[simp] theorem raiseFault_engine (c : Cause) (s : State) : (raiseFault c s).engine = s.engine := by rw [raiseFault_frame]
@[simp] theorem raiseFault_entropy (c : Cause) (s : State) : (raiseFault c s).entropy = s.entropy := by rw [raiseFault_frame]
@[simp] theorem raiseFault_entropyPhase (c : Cause) (s : State) : (raiseFault c s).entropyPhase = s.entropyPhase := by rw [raiseFault_frame]
@[simp] theorem raiseFault_mem (c : Cause) (s : State) : (raiseFault c s).mem = s.mem := by rw [raiseFault_frame]
@[simp] theorem raiseFault_inputs (c : Cause) (s : State) : (raiseFault c s).inputs = s.inputs := by rw [raiseFault_frame]
@[simp] theorem raiseFault_reply (c : Cause) (s : State) : (raiseFault c s).reply = s.reply := by rw [raiseFault_frame]
@[simp] theorem raiseFault_sequence (c : Cause) (s : State) : (raiseFault c s).sequence = s.sequence := by rw [raiseFault_frame]
@[simp] theorem raiseFault_rngScript (c : Cause) (s : State) : (raiseFault c s).rngScript = s.rngScript := by rw [raiseFault_frame]
@[simp] theorem raiseFault_draws (c : Cause) (s : State) : (raiseFault c s).draws = s.draws := by rw [raiseFault_frame]
@[simp] theorem raiseFault_hiddenCount (c : Cause) (s : State) : (raiseFault c s).hiddenCount = s.hiddenCount := by rw [raiseFault_frame]

/-! ### Commands -/

theorem runCommand_faulted {s : State} (h : s.mode = .faulted) (check : Option Cause) (effect : State) :
    runCommand check effect s = .next s := by
  simp [runCommand, h]

theorem runCommand_fault {s : State} (h : s.mode = .run) (c : Cause) (effect : State) :
    runCommand (some c) effect s = .next { s with status := Status.ofCause c, mode := .faulted } := by
  simp [runCommand, h, raiseFault_run h]

theorem runCommand_effect {s : State} (h : s.mode = .run) (effect : State) : runCommand none effect s = .next effect := by
  simp [runCommand, h]

/-- Everything a command can do: nothing (FAULTED), its fault alone, or all of its effect. -/
theorem runCommand_cases {check : Option Cause} {effect s t : State} (h : runCommand check effect s = .next t) :
    (s.mode = .faulted ∧ t = s) ∨ (s.mode = .run ∧ ∃ c, check = some c ∧ t = raiseFault c s) ∨
      (s.mode = .run ∧ check = none ∧ t = effect) := by
  unfold runCommand at h
  split at h
  · rename_i hm
    cases h
    exact .inl ⟨hm, rfl⟩
  · rename_i hm
    split at h
    · cases h
      exact .inr (.inl ⟨hm, _, rfl, rfl⟩)
    · cases h
      exact .inr (.inr ⟨hm, rfl, rfl⟩)

/-- A command always ends in a next state (R55: "every command completes"). -/
theorem runCommand_next (check : Option Cause) (effect s : State) : ∃ t, runCommand check effect s = .next t := by
  unfold runCommand
  split
  · exact ⟨_, rfl⟩
  · split <;> exact ⟨_, rfl⟩

/-! ### The buffer check -/

/-- The buffer check passes exactly on an empty buffer and on an admitted one that does not wrap (R58). -/
theorem bufferCheck_eq_none (p : Params) (b : Buffer) :
    bufferCheck p b = none ↔ b.len = 0 ∨ b.addr.toNat + b.len.toNat ≤ 2 ^ 64 ∧ admits p b = true := by
  unfold bufferCheck
  by_cases h0 : b.len = 0
  · rw [if_pos h0]
    exact ⟨fun _ => .inl h0, fun _ => rfl⟩
  rw [if_neg h0]
  by_cases h1 : 2 ^ 64 < b.addr.toNat + b.len.toNat
  · rw [if_pos h1]
    exact ⟨fun h => (nomatch h), fun h => absurd h (by rintro (h | h); exacts [h0 h, absurd h.1 (by omega)])⟩
  rw [if_neg h1]
  by_cases h2 : admits p b = true
  · rw [if_pos h2]
    exact ⟨fun _ => .inr ⟨by omega, h2⟩, fun _ => rfl⟩
  · rw [if_neg h2]
    exact ⟨fun h => (nomatch h), fun h => absurd h (by rintro (h | h); exacts [h0 h, h2 h.2])⟩

/-- The buffer check raises no other fault than BAD_BUFFER (R58). -/
theorem bufferCheck_some {p : Params} {b : Buffer} {c : Cause} (h : bufferCheck p b = some c) : c = .badBuffer := by
  simp only [bufferCheck] at h
  split at h
  · cases h
  · split at h
    · exact (Option.some.inj h).symm
    · split at h
      · cases h
      · exact (Option.some.inj h).symm

/-- A passed check keeps the whole buffer inside the address space. -/
theorem bufferCheck_bound {p : Params} {b : Buffer} (h : bufferCheck p b = none) : b.addr.toNat + b.len.toNat ≤ 2 ^ 64 := by
  rcases (bufferCheck_eq_none p b).1 h with h | h
  · have := b.addr.isLt
    simp [h]
    omega
  · exact h.1

/-! ### The window -/

/-- A write of an operand register writes SRC, LEN or DST and nothing else. -/
theorem writeOperand_frame (r : Reg) (v : Word64) (s : State) :
    writeOperand r v s =
      { s with src := (writeOperand r v s).src, len := (writeOperand r v s).len, dst := (writeOperand r v s).dst } := by
  unfold writeOperand
  split
  · rfl
  · cases r <;> rfl

/-- In mode FAULTED an operand register keeps its value (R31). -/
theorem writeOperand_faulted {s : State} (h : s.mode = .faulted) (r : Reg) (v : Word64) : writeOperand r v s = s := by
  simp [writeOperand, h]

/-- Everything a read in the window can do. -/
theorem regRead_cases {o : BitVec 7} {n : Nat} {s t : State} (h : regRead o n s = .next t) :
    (Reg.forRead o n = none ∧ t = illegalAccess s) ∨ ∃ r, Reg.forRead o n = some r ∧ t = { s with reply := r.value s } := by
  unfold regRead at h
  split at h
  · cases h
    exact .inl ⟨by assumption, rfl⟩
  · split at h
    · cases h
    · cases h
      exact .inr ⟨.status, by assumption, rfl⟩
  · cases h
    exact .inr ⟨_, by assumption, rfl⟩

end Sys2Proof.Machine
end

