-- ==== Sys2Proof/Laws/State.lean ====
section
/-! SUPPORT. One lemma per field per update of State, true by rfl. -/

namespace Sys2Proof.Machine

/-! ### `takeAnswer`: the RNG port gives one answer -/

@[simp] theorem takeAnswer_params (s : State) : (takeAnswer s).params = s.params := rfl
@[simp] theorem takeAnswer_mode (s : State) : (takeAnswer s).mode = s.mode := rfl
@[simp] theorem takeAnswer_status (s : State) : (takeAnswer s).status = s.status := rfl
@[simp] theorem takeAnswer_src (s : State) : (takeAnswer s).src = s.src := rfl
@[simp] theorem takeAnswer_len (s : State) : (takeAnswer s).len = s.len := rfl
@[simp] theorem takeAnswer_dst (s : State) : (takeAnswer s).dst = s.dst := rfl
@[simp] theorem takeAnswer_result (s : State) : (takeAnswer s).result = s.result := rfl
@[simp] theorem takeAnswer_digest (s : State) : (takeAnswer s).digest = s.digest := rfl
@[simp] theorem takeAnswer_engine (s : State) : (takeAnswer s).engine = s.engine := rfl
@[simp] theorem takeAnswer_entropy (s : State) : (takeAnswer s).entropy = s.entropy := rfl
@[simp] theorem takeAnswer_entropyPhase (s : State) : (takeAnswer s).entropyPhase = s.entropyPhase := rfl
@[simp] theorem takeAnswer_mem (s : State) : (takeAnswer s).mem = s.mem := rfl
@[simp] theorem takeAnswer_inputs (s : State) : (takeAnswer s).inputs = s.inputs := rfl
@[simp] theorem takeAnswer_reply (s : State) : (takeAnswer s).reply = s.reply := rfl
@[simp] theorem takeAnswer_sequence (s : State) : (takeAnswer s).sequence = s.sequence := rfl
@[simp] theorem takeAnswer_rngScript (s : State) : (takeAnswer s).rngScript = s.rngScript.tail := rfl
@[simp] theorem takeAnswer_draws (s : State) : (takeAnswer s).draws = s.draws + 1 := rfl
@[simp] theorem takeAnswer_hiddenCount (s : State) : (takeAnswer s).hiddenCount = s.hiddenCount := rfl

/-! ### `drawState`: one draw -/

@[simp] theorem drawState_params (s : State) : (drawState s).params = s.params := rfl
@[simp] theorem drawState_mode (s : State) : (drawState s).mode = s.mode := rfl
@[simp] theorem drawState_status (s : State) : (drawState s).status = s.status := rfl
@[simp] theorem drawState_src (s : State) : (drawState s).src = s.src := rfl
@[simp] theorem drawState_len (s : State) : (drawState s).len = s.len := rfl
@[simp] theorem drawState_dst (s : State) : (drawState s).dst = s.dst := rfl
@[simp] theorem drawState_result (s : State) : (drawState s).result = s.result := rfl
@[simp] theorem drawState_digest (s : State) : (drawState s).digest = s.digest := rfl
@[simp] theorem drawState_engine (s : State) : (drawState s).engine = s.engine := rfl
@[simp] theorem drawState_entropy (s : State) : (drawState s).entropy = (nextAnswer s).entropyAfter s.entropy := rfl
@[simp] theorem drawState_entropyPhase (s : State) : (drawState s).entropyPhase = s.entropyPhase := rfl
@[simp] theorem drawState_mem (s : State) : (drawState s).mem = s.mem := rfl
@[simp] theorem drawState_inputs (s : State) : (drawState s).inputs = s.inputs := rfl
@[simp] theorem drawState_reply (s : State) : (drawState s).reply = s.reply := rfl
@[simp] theorem drawState_sequence (s : State) : (drawState s).sequence = s.sequence := rfl
@[simp] theorem drawState_rngScript (s : State) : (drawState s).rngScript = s.rngScript.tail := rfl
@[simp] theorem drawState_draws (s : State) : (drawState s).draws = s.draws + 1 := rfl
@[simp] theorem drawState_hiddenCount (s : State) : (drawState s).hiddenCount = s.hiddenCount := rfl

/-! ### `randU64Effect`: RAND_U64 -/

@[simp] theorem randU64Effect_params (s : State) : (randU64Effect s).params = s.params := rfl
@[simp] theorem randU64Effect_mode (s : State) : (randU64Effect s).mode = s.mode := rfl
@[simp] theorem randU64Effect_status (s : State) : (randU64Effect s).status = s.status := rfl
@[simp] theorem randU64Effect_src (s : State) : (randU64Effect s).src = s.src := rfl
@[simp] theorem randU64Effect_len (s : State) : (randU64Effect s).len = s.len := rfl
@[simp] theorem randU64Effect_dst (s : State) : (randU64Effect s).dst = s.dst := rfl
@[simp] theorem randU64Effect_result (s : State) : (randU64Effect s).result = drawValue s := rfl
@[simp] theorem randU64Effect_digest (s : State) : (randU64Effect s).digest = s.digest := rfl
@[simp] theorem randU64Effect_engine (s : State) : (randU64Effect s).engine = s.engine := rfl
@[simp] theorem randU64Effect_entropy (s : State) : (randU64Effect s).entropy = (nextAnswer s).entropyAfter s.entropy := rfl
@[simp] theorem randU64Effect_entropyPhase (s : State) : (randU64Effect s).entropyPhase = s.entropyPhase := rfl
@[simp] theorem randU64Effect_mem (s : State) : (randU64Effect s).mem = s.mem := rfl
@[simp] theorem randU64Effect_inputs (s : State) : (randU64Effect s).inputs = s.inputs := rfl
@[simp] theorem randU64Effect_reply (s : State) : (randU64Effect s).reply = s.reply := rfl
@[simp] theorem randU64Effect_sequence (s : State) : (randU64Effect s).sequence = s.sequence := rfl
@[simp] theorem randU64Effect_rngScript (s : State) : (randU64Effect s).rngScript = s.rngScript.tail := rfl
@[simp] theorem randU64Effect_draws (s : State) : (randU64Effect s).draws = s.draws + 1 := rfl
@[simp] theorem randU64Effect_hiddenCount (s : State) : (randU64Effect s).hiddenCount = s.hiddenCount := rfl

/-! ### `seqStart`: the sequencer's start -/

@[simp] theorem seqStart_params (s : State) : (seqStart s).params = s.params := rfl
@[simp] theorem seqStart_mode (s : State) : (seqStart s).mode = s.mode := rfl
@[simp] theorem seqStart_status (s : State) : (seqStart s).status = s.status := rfl
@[simp] theorem seqStart_src (s : State) : (seqStart s).src = s.src := rfl
@[simp] theorem seqStart_len (s : State) : (seqStart s).len = s.len := rfl
@[simp] theorem seqStart_dst (s : State) : (seqStart s).dst = s.dst := rfl
@[simp] theorem seqStart_result (s : State) : (seqStart s).result = s.result := rfl
@[simp] theorem seqStart_digest (s : State) : (seqStart s).digest = s.digest := rfl
@[simp] theorem seqStart_engine (s : State) : (seqStart s).engine = { s.engine with phase := .full, h := Sha256.iv, blockIndex := 0 } := rfl
@[simp] theorem seqStart_entropy (s : State) : (seqStart s).entropy = s.entropy := rfl
@[simp] theorem seqStart_entropyPhase (s : State) : (seqStart s).entropyPhase = s.entropyPhase := rfl
@[simp] theorem seqStart_mem (s : State) : (seqStart s).mem = s.mem := rfl
@[simp] theorem seqStart_inputs (s : State) : (seqStart s).inputs = s.inputs := rfl
@[simp] theorem seqStart_reply (s : State) : (seqStart s).reply = s.reply := rfl
@[simp] theorem seqStart_sequence (s : State) : (seqStart s).sequence = s.sequence := rfl
@[simp] theorem seqStart_rngScript (s : State) : (seqStart s).rngScript = s.rngScript := rfl
@[simp] theorem seqStart_draws (s : State) : (seqStart s).draws = s.draws := rfl
@[simp] theorem seqStart_hiddenCount (s : State) : (seqStart s).hiddenCount = s.hiddenCount := rfl

/-! ### `hideEngine`: the HashEngine is hidden again -/

@[simp] theorem hideEngine_params (s : State) : (hideEngine s).params = s.params := rfl
@[simp] theorem hideEngine_mode (s : State) : (hideEngine s).mode = s.mode := rfl
@[simp] theorem hideEngine_status (s : State) : (hideEngine s).status = s.status := rfl
@[simp] theorem hideEngine_src (s : State) : (hideEngine s).src = s.src := rfl
@[simp] theorem hideEngine_len (s : State) : (hideEngine s).len = s.len := rfl
@[simp] theorem hideEngine_dst (s : State) : (hideEngine s).dst = s.dst := rfl
@[simp] theorem hideEngine_result (s : State) : (hideEngine s).result = s.result := rfl
@[simp] theorem hideEngine_digest (s : State) : (hideEngine s).digest = s.digest := rfl
@[simp] theorem hideEngine_engine (s : State) : (hideEngine s).engine = HashEngine.hidden s.hiddenCount := rfl
@[simp] theorem hideEngine_entropy (s : State) : (hideEngine s).entropy = s.entropy := rfl
@[simp] theorem hideEngine_entropyPhase (s : State) : (hideEngine s).entropyPhase = s.entropyPhase := rfl
@[simp] theorem hideEngine_mem (s : State) : (hideEngine s).mem = s.mem := rfl
@[simp] theorem hideEngine_inputs (s : State) : (hideEngine s).inputs = s.inputs := rfl
@[simp] theorem hideEngine_reply (s : State) : (hideEngine s).reply = s.reply := rfl
@[simp] theorem hideEngine_sequence (s : State) : (hideEngine s).sequence = s.sequence := rfl
@[simp] theorem hideEngine_rngScript (s : State) : (hideEngine s).rngScript = s.rngScript := rfl
@[simp] theorem hideEngine_draws (s : State) : (hideEngine s).draws = s.draws := rfl
@[simp] theorem hideEngine_hiddenCount (s : State) : (hideEngine s).hiddenCount = s.hiddenCount + 1 := rfl

/-! ### `blockReset`: the block reset -/

@[simp] theorem blockReset_params (s : State) : (blockReset s).params = s.params := rfl
@[simp] theorem blockReset_mode (s : State) : (blockReset s).mode = .run := rfl
@[simp] theorem blockReset_status (s : State) : (blockReset s).status = 0 := rfl
@[simp] theorem blockReset_src (s : State) : (blockReset s).src = 0 := rfl
@[simp] theorem blockReset_len (s : State) : (blockReset s).len = 0 := rfl
@[simp] theorem blockReset_dst (s : State) : (blockReset s).dst = 0 := rfl
@[simp] theorem blockReset_result (s : State) : (blockReset s).result = 0 := rfl
@[simp] theorem blockReset_digest (s : State) : (blockReset s).digest = Vector.replicate 8 0 := rfl
@[simp] theorem blockReset_engine (s : State) : (blockReset s).engine = HashEngine.hidden s.hiddenCount := rfl
@[simp] theorem blockReset_entropy (s : State) : (blockReset s).entropy = EntropyState.ofSeed s.params.seed := rfl
@[simp] theorem blockReset_entropyPhase (s : State) : (blockReset s).entropyPhase = .ready := rfl
@[simp] theorem blockReset_mem (s : State) : (blockReset s).mem = s.mem := rfl
@[simp] theorem blockReset_inputs (s : State) : (blockReset s).inputs = s.inputs := rfl
@[simp] theorem blockReset_reply (s : State) : (blockReset s).reply = .none := rfl
@[simp] theorem blockReset_sequence (s : State) : (blockReset s).sequence = none := rfl
@[simp] theorem blockReset_rngScript (s : State) : (blockReset s).rngScript = s.rngScript := rfl
@[simp] theorem blockReset_draws (s : State) : (blockReset s).draws = s.draws := rfl
@[simp] theorem blockReset_hiddenCount (s : State) : (blockReset s).hiddenCount = s.hiddenCount + 1 := rfl

/-! ### `accessState`: the note of the command sequence -/

@[simp] theorem accessState_params (op : BusOp) (e : BusEvent) (s : State) : (accessState op e s).params = s.params := rfl
@[simp] theorem accessState_mode (op : BusOp) (e : BusEvent) (s : State) : (accessState op e s).mode = s.mode := rfl
@[simp] theorem accessState_status (op : BusOp) (e : BusEvent) (s : State) : (accessState op e s).status = s.status := rfl
@[simp] theorem accessState_src (op : BusOp) (e : BusEvent) (s : State) : (accessState op e s).src = s.src := rfl
@[simp] theorem accessState_len (op : BusOp) (e : BusEvent) (s : State) : (accessState op e s).len = s.len := rfl
@[simp] theorem accessState_dst (op : BusOp) (e : BusEvent) (s : State) : (accessState op e s).dst = s.dst := rfl
@[simp] theorem accessState_result (op : BusOp) (e : BusEvent) (s : State) : (accessState op e s).result = s.result := rfl
@[simp] theorem accessState_digest (op : BusOp) (e : BusEvent) (s : State) : (accessState op e s).digest = s.digest := rfl
@[simp] theorem accessState_engine (op : BusOp) (e : BusEvent) (s : State) : (accessState op e s).engine = s.engine := rfl
@[simp] theorem accessState_entropy (op : BusOp) (e : BusEvent) (s : State) : (accessState op e s).entropy = s.entropy := rfl
@[simp] theorem accessState_entropyPhase (op : BusOp) (e : BusEvent) (s : State) : (accessState op e s).entropyPhase = s.entropyPhase := rfl
@[simp] theorem accessState_mem (op : BusOp) (e : BusEvent) (s : State) : (accessState op e s).mem = s.mem := rfl
@[simp] theorem accessState_inputs (op : BusOp) (e : BusEvent) (s : State) : (accessState op e s).inputs = s.inputs := rfl
@[simp] theorem accessState_reply (op : BusOp) (e : BusEvent) (s : State) : (accessState op e s).reply = s.reply := rfl
@[simp] theorem accessState_rngScript (op : BusOp) (e : BusEvent) (s : State) : (accessState op e s).rngScript = s.rngScript := rfl
@[simp] theorem accessState_draws (op : BusOp) (e : BusEvent) (s : State) : (accessState op e s).draws = s.draws := rfl
@[simp] theorem accessState_hiddenCount (op : BusOp) (e : BusEvent) (s : State) : (accessState op e s).hiddenCount = s.hiddenCount := rfl
@[simp] theorem accessState_sequence (op : BusOp) (e : BusEvent) (s : State) :
    (accessState op e s).sequence = if op.legalInWindow then sequenceAfter e else s.sequence := rfl

/-! ### `withAccess`: a host access is put in front -/

@[simp] theorem withAccess_params (s : State) (e : BusEvent) : (s.withAccess e).params = s.params := rfl
@[simp] theorem withAccess_mode (s : State) (e : BusEvent) : (s.withAccess e).mode = s.mode := rfl
@[simp] theorem withAccess_status (s : State) (e : BusEvent) : (s.withAccess e).status = s.status := rfl
@[simp] theorem withAccess_src (s : State) (e : BusEvent) : (s.withAccess e).src = s.src := rfl
@[simp] theorem withAccess_len (s : State) (e : BusEvent) : (s.withAccess e).len = s.len := rfl
@[simp] theorem withAccess_dst (s : State) (e : BusEvent) : (s.withAccess e).dst = s.dst := rfl
@[simp] theorem withAccess_result (s : State) (e : BusEvent) : (s.withAccess e).result = s.result := rfl
@[simp] theorem withAccess_digest (s : State) (e : BusEvent) : (s.withAccess e).digest = s.digest := rfl
@[simp] theorem withAccess_engine (s : State) (e : BusEvent) : (s.withAccess e).engine = s.engine := rfl
@[simp] theorem withAccess_entropy (s : State) (e : BusEvent) : (s.withAccess e).entropy = s.entropy := rfl
@[simp] theorem withAccess_entropyPhase (s : State) (e : BusEvent) : (s.withAccess e).entropyPhase = s.entropyPhase := rfl
@[simp] theorem withAccess_mem (s : State) (e : BusEvent) : (s.withAccess e).mem = s.mem := rfl
@[simp] theorem withAccess_inputs (s : State) (e : BusEvent) : (s.withAccess e).inputs = .bus e :: s.inputs := rfl
@[simp] theorem withAccess_reply (s : State) (e : BusEvent) : (s.withAccess e).reply = s.reply := rfl
@[simp] theorem withAccess_sequence (s : State) (e : BusEvent) : (s.withAccess e).sequence = s.sequence := rfl
@[simp] theorem withAccess_rngScript (s : State) (e : BusEvent) : (s.withAccess e).rngScript = s.rngScript := rfl
@[simp] theorem withAccess_draws (s : State) (e : BusEvent) : (s.withAccess e).draws = s.draws := rfl
@[simp] theorem withAccess_hiddenCount (s : State) (e : BusEvent) : (s.withAccess e).hiddenCount = s.hiddenCount := rfl

end Sys2Proof.Machine
end

