-- ==== Sys2Proof/Laws/Entropy.lean ====
section
/-! SUPPORT. What draws and the fill loop can change. -/

namespace Sys2Proof.Machine

/-- Draws change EntropyState and use up the port's answers, nothing else. -/
theorem drawMany_frame (n : Nat) (s : State) :
    drawMany n s =
      { s with entropy := (drawMany n s).entropy, rngScript := s.rngScript.drop n, draws := s.draws + n } := by
  induction n generalizing s with
  | zero => rfl
  | succ n ih =>
    simp only [drawMany]
    rw [ih (drawState s)]
    simp only [drawState, takeAnswer, State.mk.injEq, true_and, and_true]
    exact ⟨by simp, by omega⟩

theorem drawMany_succ (n : Nat) (s : State) : drawMany (n + 1) s = drawState (drawMany n s) := by
  induction n generalizing s with
  | zero => rfl
  | succ n ih => exact ih (drawState s)

/-- A draw does not read host memory. -/
theorem drawState_with_mem (s : State) (m : List Host.Cell) :
    drawState { s with mem := m } = { drawState s with mem := m } := rfl

theorem drawValue_with_mem (s : State) (m : List Host.Cell) : drawValue { s with mem := m } = drawValue s := rfl

/-- The fill loop makes its draws and writes host memory, nothing else. -/
theorem fillWords_frame (q addr left : Nat) (s : State) :
    fillWords q addr left s = { drawMany q s with mem := (fillWords q addr left s).mem } := by
  induction q generalizing addr left s with
  | zero => rfl
  | succ q ih =>
    simp only [fillWords, drawMany]
    rw [ih]
    have : ∀ (n : Nat) (x : State) (m : List Host.Cell), drawMany n { x with mem := m } = { drawMany n x with mem := m } := by
      intro n
      induction n with
      | zero => intros; rfl
      | succ n ih' =>
        intro x m
        simp only [drawMany]
        rw [drawState_with_mem, ih']
    rw [this]

/-- All a RAND_BYTES that runs can change. -/
theorem randBytesEffect_frame (s : State) :
    randBytesEffect s = { drawMany (drawCount s.len.toNat) s with mem := (randBytesEffect s).mem } :=
  fillWords_frame _ _ _ s

/-- Draws do not depend on host memory. -/
theorem drawMany_with_mem (n : Nat) (s : State) (m : List Host.Cell) :
    drawMany n { s with mem := m } = { drawMany n s with mem := m } := by
  induction n generalizing s with
  | zero => rfl
  | succ n ih =>
    simp only [drawMany]
    rw [drawState_with_mem, ih]

/-- The fill loop keeps host memory in its one form, while the buffer is inside the address space. -/
theorem fillWords_wf (q addr left : Nat) (s : State) (hm : Memory.wf s.mem) (hb : addr + left ≤ 2 ^ Config.addrWidth)
    (hq : q = drawCount left) : Memory.wf (fillWords q addr left s).mem := by
  induction q generalizing addr left s with
  | zero => exact hm
  | succ q ih =>
    simp only [fillWords]
    unfold drawCount at hq
    by_cases h8 : 8 ≤ left
    · refine ih (addr + 8) (left - 8) _ ?_ (by omega) (by unfold drawCount; omega)
      exact Memory.writeLE_wf hm _ _ _ (by omega)
    · have hq0 : q = 0 := by omega
      subst hq0
      exact Memory.writeLE_wf hm _ _ _ (by omega)

end Sys2Proof.Machine
end

