-- ==== Sys2Proof/Laws/Sequencer.lean ====
section
/-! SUPPORT. What the HashEngine's sequencer can change: DIGEST0..7 and its own registers. -/

namespace Sys2Proof.Machine

theorem seqStep_frame (s : State) :
    seqStep s = { s with digest := (seqStep s).digest, engine := (seqStep s).engine } := by
  unfold seqStep
  split <;> (try split) <;> rfl

theorem seqRun_frame (n : Nat) (s : State) :
    seqRun n s = { s with digest := (seqRun n s).digest, engine := (seqRun n s).engine } := by
  induction n generalizing s with
  | zero => rfl
  | succ n ih =>
    simp only [seqRun]
    rw [ih (seqStep s)]
    rw [seqStep_frame s]

/-- All a HASH that runs can change: DIGEST0..7, and the hidden engine. -/
theorem hashEffect_frame (s : State) :
    hashEffect s =
      { s with
        digest := (hashEffect s).digest
        engine := HashEngine.hidden s.hiddenCount
        hiddenCount := s.hiddenCount + 1 } := by
  unfold hashEffect hideEngine
  rw [seqRun_frame]
  rfl

theorem seqRun_add (m n : Nat) (s : State) : seqRun (m + n) s = seqRun n (seqRun m s) := by
  induction m generalizing s with
  | zero => simp [seqRun]
  | succ m ih =>
    rw [Nat.succ_add]
    exact ih (seqStep s)

end Sys2Proof.Machine
end

