-- ==== Sys2Proof/Laws/Bus.lean ====
section
/-! SUPPORT. Inversion lemmas: everything a command, a bus access and a step can do. -/

namespace Sys2Proof.Machine

/-- Every command ends in a next state (R55). -/
theorem exec_next (i : Instr) (s : State) : ∃ t, exec i s = .next t := by
  cases i with
  | hash => exact runCommand_next (hashCheck s) (hashEffect s) s
  | randU64 => exact runCommand_next none (randU64Effect s) s
  | randBytes => exact runCommand_next (bufferCheck s.params (randBuffer s)) (randBytesEffect s) s

/-- In mode FAULTED every command is ignored (R148). -/
theorem exec_faulted {s : State} (h : s.mode = .faulted) (i : Instr) : exec i s = .next s := by
  cases i with
  | hash => exact runCommand_faulted h (hashCheck s) (hashEffect s)
  | randU64 => exact runCommand_faulted h none (randU64Effect s)
  | randBytes => exact runCommand_faulted h (bufferCheck s.params (randBuffer s)) (randBytesEffect s)

/-- Everything an issued word can do (R24, R75). -/
theorem issueCommand_cases {w : Word32} {s t : State} (h : issueCommand w s = .next t) :
    ((∀ i, decode w ≠ .ok i) ∧ t = raiseFault .illegalCmd s) ∨ ∃ i, decode w = .ok i ∧ exec i s = .next t := by
  unfold issueCommand at h
  split at h
  · exact .inr ⟨_, by assumption, h⟩
  · rename_i hd
    cases h
    exact .inl ⟨by simp [hd], rfl⟩

theorem issueCommand_next (w : Word32) (s : State) : ∃ t, issueCommand w s = .next t := by
  unfold issueCommand
  split
  · exact exec_next _ _
  · exact ⟨_, rfl⟩

/-- Everything a write in the window can do. -/
theorem regWrite_cases {o : BitVec 7} {n : Nat} {v : Word64} {s t : State} (h : regWrite o n v s = .next t) :
    (Reg.forWrite o n = none ∧ t = illegalAccess s) ∨
    (Reg.forWrite o n = some .cmd ∧ issueCommand (v.setWidth 32) { s with reply := .ack } = .next t) ∨
    ∃ r, Reg.forWrite o n = some r ∧ t = writeOperand r v { s with reply := .ack } := by
  unfold regWrite at h
  split at h
  · cases h
    exact .inl ⟨by assumption, rfl⟩
  · exact .inr (.inl ⟨by assumption, h⟩)
  · cases h
    exact .inr (.inr ⟨_, by assumption, rfl⟩)

theorem regWrite_next (o : BitVec 7) (n : Nat) (v : Word64) (s : State) : ∃ t, regWrite o n v s = .next t := by
  unfold regWrite
  split
  · exact ⟨_, rfl⟩
  · exact issueCommand_next _ _
  · exact ⟨_, rfl⟩

/-- Everything a routed access can do, alone. -/
theorem busOp_cases {op : BusOp} {s t : State} (h : busOp op s = .next t) :
    t = illegalAccess s ∨ (∃ r, t = { s with reply := r }) ∨ (∃ r v, t = writeOperand r v { s with reply := .ack }) ∨
    (∃ o n v, op = .regWrite o n v ∧ Reg.forWrite o n = some .cmd ∧
      issueCommand (v.setWidth 32) { s with reply := .ack } = .next t) ∨
    ∃ a v, op = .memWrite a v ∧ t = { s with mem := Memory.write s.mem a.toNat v, reply := .ack } := by
  cases op with
  | regRead o n =>
    rcases regRead_cases h with ⟨_, rfl⟩ | ⟨r, _, rfl⟩
    · exact .inl rfl
    · exact .inr (.inl ⟨_, rfl⟩)
  | regWrite o n v =>
    rcases regWrite_cases h with ⟨_, rfl⟩ | ⟨hr, hi⟩ | ⟨r, _, rfl⟩
    · exact .inl rfl
    · exact .inr (.inr (.inr (.inl ⟨o, n, v, rfl, hr, hi⟩)))
    · exact .inr (.inr (.inl ⟨_, _, rfl⟩))
  | memRead a =>
    cases h
    exact .inr (.inl ⟨_, rfl⟩)
  | memWrite a v =>
    cases h
    exact .inr (.inr (.inr (.inr ⟨a, v, rfl, rfl⟩)))

/-- Everything the landing of other agents' stores can do. -/
theorem land_cases {others : List AgentAccess} {x : Host.Outcome State Fault Refusal} {t : State} (h : land others x = .next t) :
    ∃ t', x = .next t' ∧ t = applyOthers others t' := by
  cases x with
  | next t' =>
    cases h
    exact ⟨t', rfl, rfl⟩
  | fault r => cases h
  | refused r => cases h

@[simp] theorem applyOthers_nil (s : State) : applyOthers [] s = s := rfl

/-- Other agents' accesses change host memory and, by BAD_REG_ACCESS, STATUS and the mode; nothing else. -/
theorem applyOthers_frame (xs : List AgentAccess) (s : State) :
    applyOthers xs s =
      { s with mem := xs.foldl (AgentAccess.land s.params.base) s.mem
               status := (applyOthers xs s).status
               mode := (applyOthers xs s).mode } := by
  unfold applyOthers
  split
  · rw [raiseFault_frame]
  · rfl

@[simp] theorem applyOthers_params (xs : List AgentAccess) (s : State) : (applyOthers xs s).params = s.params := by rw [applyOthers_frame]
@[simp] theorem applyOthers_src (xs : List AgentAccess) (s : State) : (applyOthers xs s).src = s.src := by rw [applyOthers_frame]
@[simp] theorem applyOthers_len (xs : List AgentAccess) (s : State) : (applyOthers xs s).len = s.len := by rw [applyOthers_frame]
@[simp] theorem applyOthers_dst (xs : List AgentAccess) (s : State) : (applyOthers xs s).dst = s.dst := by rw [applyOthers_frame]
@[simp] theorem applyOthers_result (xs : List AgentAccess) (s : State) : (applyOthers xs s).result = s.result := by rw [applyOthers_frame]
@[simp] theorem applyOthers_digest (xs : List AgentAccess) (s : State) : (applyOthers xs s).digest = s.digest := by rw [applyOthers_frame]
@[simp] theorem applyOthers_engine (xs : List AgentAccess) (s : State) : (applyOthers xs s).engine = s.engine := by rw [applyOthers_frame]
@[simp] theorem applyOthers_entropy (xs : List AgentAccess) (s : State) : (applyOthers xs s).entropy = s.entropy := by rw [applyOthers_frame]
@[simp] theorem applyOthers_entropyPhase (xs : List AgentAccess) (s : State) : (applyOthers xs s).entropyPhase = s.entropyPhase := by rw [applyOthers_frame]
@[simp] theorem applyOthers_inputs (xs : List AgentAccess) (s : State) : (applyOthers xs s).inputs = s.inputs := by rw [applyOthers_frame]
@[simp] theorem applyOthers_reply (xs : List AgentAccess) (s : State) : (applyOthers xs s).reply = s.reply := by rw [applyOthers_frame]
@[simp] theorem applyOthers_sequence (xs : List AgentAccess) (s : State) : (applyOthers xs s).sequence = s.sequence := by rw [applyOthers_frame]
@[simp] theorem applyOthers_rngScript (xs : List AgentAccess) (s : State) : (applyOthers xs s).rngScript = s.rngScript := by rw [applyOthers_frame]
@[simp] theorem applyOthers_draws (xs : List AgentAccess) (s : State) : (applyOthers xs s).draws = s.draws := by rw [applyOthers_frame]
@[simp] theorem applyOthers_hiddenCount (xs : List AgentAccess) (s : State) : (applyOthers xs s).hiddenCount = s.hiddenCount := by rw [applyOthers_frame]

@[simp] theorem applyOthers_mem (xs : List AgentAccess) (s : State) :
    (applyOthers xs s).mem = xs.foldl (AgentAccess.land s.params.base) s.mem := by rw [applyOthers_frame]

/-- An agent that reaches into the window faults the block (R146). -/
theorem applyOthers_fault {xs : List AgentAccess} {s : State} (hx : ∃ x ∈ xs, inWindow s.params.base x.addr = true)
    (hm : s.mode = .run) :
    (applyOthers xs s).status = Status.ofCause .badRegAccess ∧ (applyOthers xs s).mode = .faulted := by
  have : (xs.any fun x => inWindow s.params.base x.addr) = true := List.any_eq_true.2 hx
  simp only [applyOthers, this, if_true]
  rw [raiseFault_run (by exact hm)]
  exact ⟨rfl, rfl⟩

/-- Otherwise STATUS and the mode stay (R148). -/
theorem applyOthers_keep {xs : List AgentAccess} {s : State}
    (h : (∀ x ∈ xs, inWindow s.params.base x.addr = false) ∨ s.mode = .faulted) :
    (applyOthers xs s).status = s.status ∧ (applyOthers xs s).mode = s.mode := by
  unfold applyOthers
  split
  · rename_i hx
    obtain ⟨x, hx, hw⟩ := List.any_eq_true.1 hx
    rcases h with h | h
    · rw [h x hx] at hw
      cases hw
    · rw [raiseFault_faulted (by exact h)]
      exact ⟨rfl, rfl⟩
  · exact ⟨rfl, rfl⟩

/-- Other agents' stores keep host memory in its one form. -/
theorem land_wf (base : Word64) (xs : List AgentAccess) {m : List Host.Cell} (hm : Memory.wf m) :
    Memory.wf (xs.foldl (AgentAccess.land base) m) := by
  induction xs generalizing m with
  | nil => exact hm
  | cons x xs ih =>
    refine ih ?_
    unfold AgentAccess.land
    split
    · exact hm
    · split
      · exact hm
      · exact Memory.write_wf hm x.addr.isLt _

/-- With no other agent nothing lands. -/
@[simp] theorem land_nil (x : Host.Outcome State Fault Refusal) : land [] x = x := by
  cases x <;> rfl

/-- A bus event that answers a next state raced with nothing, made its access, and let the other agents' stores land. -/
theorem busEvent_cases {e : BusEvent} {s t : State} (h : busEvent e s = .next t) :
    otherContext (route s.params.base e.op) e s = false ∧
    touchesBuffer (route s.params.base e.op) e.others s = false ∧
    ∃ t', busOp (route s.params.base e.op) (accessState (route s.params.base e.op) e s) = .next t' ∧
      t = applyOthers e.others t' := by
  unfold busEvent routedEvent at h
  split at h
  · cases h
  · rename_i h1
    split at h
    · cases h
    · rename_i h2
      simp only [Bool.not_eq_true] at h1 h2
      exact ⟨h1, h2, land_cases h⟩

/-- An illegal access belongs to no command sequence, so it does not interleave (R147). -/
theorem otherContext_of_illegal {op : BusOp} (h : op.legalInWindow = false) (e : BusEvent) (s : State) :
    otherContext op e s = false := by
  simp [otherContext, h]

/-- An access by the context whose command sequence is open, or by any while none is, does not interleave. -/
theorem otherContext_eq_false {s : State} {e : BusEvent} (hq : s.sequence = none ∨ s.sequence = some e.ctx) (op : BusOp) :
    otherContext op e s = false := by
  unfold otherContext
  rcases hq with hq | hq <;> simp [hq]

/-- What a step does with a host access that nothing disturbs: the access, alone. -/
theorem step_of_quiet {s : State} {e : BusEvent} {rest : List Input} (hi : s.inputs = .bus e :: rest) (ho : e.others = [])
    (hq : s.sequence = none ∨ s.sequence = some e.ctx) :
    step s = busOp (route s.params.base e.op) (accessState (route s.params.base e.op) e { s with inputs := rest }) := by
  have h1 : otherContext (route s.params.base e.op) e { s with inputs := rest } = false := otherContext_eq_false hq _
  simp [step, serve, hi, busEvent, routedEvent, h1, touchesBuffer, ho]

/-- An illegal access issues no command, so it touches no buffer (R147). -/
theorem touchesBuffer_of_illegal {op : BusOp} (h : op.legalInWindow = false) (xs : List AgentAccess) (s : State) :
    touchesBuffer op xs s = false := by
  have : issuedBy op = none := by
    cases op with
    | regWrite o n v => simp only [BusOp.legalInWindow, Option.isSome_eq_false_iff, Option.isNone_iff_eq_none] at h; simp [issuedBy, h]
    | _ => rfl
  simp [touchesBuffer, this]

/-- What a step does with an illegal register access, whoever makes it and whatever sequence is open: BAD_REG_ACCESS, then what the
other agents did (R146, R147). -/
theorem step_of_illegal {s : State} {e : BusEvent} {rest : List Input} (hi : s.inputs = .bus e :: rest)
    (hr : (∃ o n, route s.params.base e.op = .regRead o n ∧ Reg.forRead o n = none) ∨
      ∃ o n v, route s.params.base e.op = .regWrite o n v ∧ Reg.forWrite o n = none) :
    step s = .next (applyOthers e.others (illegalAccess { s with inputs := rest })) := by
  rcases hr with ⟨o, n, hop, hn⟩ | ⟨o, n, v, hop, hn⟩
  · have hl : (BusOp.regRead o n).legalInWindow = false := by simp [BusOp.legalInWindow, hn]
    simp [step, serve, hi, busEvent, routedEvent, hop, otherContext_of_illegal hl, touchesBuffer_of_illegal hl, accessState, hl,
      busOp, regRead, hn, land]
  · have hl : (BusOp.regWrite o n v).legalInWindow = false := by simp [BusOp.legalInWindow, hn]
    simp [step, serve, hi, busEvent, routedEvent, hop, otherContext_of_illegal hl, touchesBuffer_of_illegal hl, accessState, hl,
      busOp, regWrite, hn, land]

/-- Everything a step can do when it answers a next state. -/
theorem step_cases {s t : State} (h : step s = .next t) :
    (s.inputs = [] ∧ t = s) ∨
    (∃ rest, s.inputs = .blockReset :: rest ∧ t = blockReset { s with inputs := rest }) ∨
    ∃ e rest, s.inputs = .bus e :: rest ∧ busEvent e { s with inputs := rest } = .next t := by
  simp only [step, serve] at h
  split at h
  · cases h
    exact .inl ⟨by assumption, rfl⟩
  · exact .inr (.inr ⟨_, _, by assumption, h⟩)
  · cases h
    exact .inr (.inl ⟨_, by assumption, rfl⟩)
  · cases h

end Sys2Proof.Machine
end

