-- ==== Sys2Proof/Laws/PerInstr.lean ====
section
/-! SUPPORT. Statements about every command as syntax, one lemma per constructor. -/

namespace Sys2Proof.Laws.Encoding

/-- A command's word is a legal command word: RSV = 0, OPC its opcode, of the three (R70, R72, R73). -/
def Statement (i : Instr) : Prop :=
  rsvField (encode i) = 0 ∧ opcField (encode i) = i.opcode ∧ CmdWord.wf (encode i) = true ∧ i.wf = true

theorem hash : Statement .hash := by unfold Statement; decide

theorem randU64 : Statement .randU64 := by unfold Statement; decide

theorem randBytes : Statement .randBytes := by unfold Statement; decide

end Sys2Proof.Laws.Encoding
end

