-- ==== Sys2Proof/Tests/Slice0.lean ====
section
/-! SUPPORT. Small tests. Expected values are written out from the spec: the encodings of 30_encoding.md, and the vectors of
95_test_vectors.md named in each comment. The witnesses show that each statement's hypotheses can be met. -/

namespace Sys2Proof.Tests

open Sys2Proof Sys2Proof.Machine

/-! ### Helpers -/

/-- The next state of an outcome, if it is one. -/
def ok (x : Host.Outcome State Fault Refusal) : Option State :=
  match x with
  | .next s => some s
  | .fault _ => none
  | .refused _ => none

/-- Is the outcome this fault? -/
def isFault (x : Host.Outcome State Fault Refusal) (r : Fault) : Bool :=
  match x with
  | .next _ => false
  | .fault r' => decide (r' = r)
  | .refused _ => false

/-- A machine right after reset with the example seed (1, 2, 3, 4), a window at 0x40000000, and a few admitted buffers. -/
def demo : State :=
  { State.reset with
    params :=
      { base := 0x40000000, seed := #v[1, 2, 3, 4]
        launch := [⟨0x1000, 3, .read⟩, ⟨0x2000, 56, .read⟩, ⟨0xfffffffffffffffd, 3, .read⟩, ⟨0x3000, 11, .write⟩,
          ⟨0x3000, 20, .write⟩, ⟨0x40000040, 16, .read⟩, ⟨0xfffffffffffffffd, 3, .write⟩] }
    entropy := ⟨1, 2, 3, 4⟩ }

/-- `demo` with the bytes "abc" at SRC. -/
def abc : State := { demo with src := 0x1000, len := 3, mem := [(0x1000, 0x61), (0x1001, 0x62), (0x1002, 0x63)] }

/-- `demo` with one bus access pending by context 0, not the last of its sequence. -/
def access (s : State) (op : BusOp) : State := s.withAccess ⟨0, false, op, []⟩

/-- The same in mode FAULTED with cause ILLEGAL_CMD. -/
def faulted : State := { demo with mode := .faulted, status := 0x11 }

/-- An answer of the port: probe 0. -/
def off : List RngAnswer := [.unavailable, .unavailable, .unavailable]

/-! ### Encoding: words written out bit by bit from R70 and R72 -/

theorem test_decode_hash : decode (0b000000000000000000000000#24 ++ 0b00000001#8) = .ok .hash := by decide
theorem test_decode_randU64 : decode (0b000000000000000000000000#24 ++ 0b00000010#8) = .ok .randU64 := by decide
theorem test_decode_randBytes : decode (0b000000000000000000000000#24 ++ 0b00000011#8) = .ok .randBytes := by decide

/-- V-D2, V-D3, V-D4, V-D5. -/
theorem test_decode_illegal :
    decode 0x00000000 = .error .reservedOpcode ∧ decode 0x00000004 = .error .reservedOpcode ∧
    decode 0x00000101 = .error .reservedBits ∧ decode 0x800000ff = .error .reservedBits := by decide

/-! ### WellFormed: an ill-formed term for each check -/

theorem test_wf_reserved_bits : CmdWord.rsvZero 0x00000101 = false ∧ CmdWord.wf 0x00000101 = false := by decide
theorem test_wf_reserved_opcode : CmdWord.opcKnown 0x00000004 = false ∧ CmdWord.wf 0x00000004 = false := by decide
theorem test_wf_stmt_width :
    (Stmt.wr32 .src 0).assemble = none ∧ (Stmt.wr64 .cmd 1).assemble = none ∧ (Stmt.rd32 .result).assemble = none ∧
    (Stmt.rd64 (.digest 0)).assemble = none := by decide

/-! ### Commands run as the first command after reset -/

theorem test_first_hash : (ok (step (State.reset.withFetchWord 32 1))).isSome = true := by decide
theorem test_first_randU64 : (ok (step (State.reset.withFetchWord 32 2))).isSome = true := by decide
theorem test_first_randBytes : (ok (step (State.reset.withFetchWord 32 3))).isSome = true := by decide

/-! ### HASH -/

/-- V-H2. -/
theorem test_hash_abc : (ok (exec .hash abc)).map (fun s => s.digest) =
    some #v[0xba7816bf, 0x8f01cfea, 0x414140de, 0x5dae2223, 0xb00361a3, 0x96177a9c, 0xb410ff61, 0xf20015ad] := by
  decide +kernel

/-- V-H1, V-HF1: the empty message, with an address that no buffer could have. -/
theorem test_hash_empty :
    (ok (exec .hash { demo with src := 0xffffffffffffffff })).map (fun s => (s.digest.get 0, s.digest.get 7, s.status)) =
      some (0xe3b0c442, 0x7852b855, 0) := by
  decide +kernel

/-- V-P, L = 56: the pad block ends with 0x80 and the length block with the bit length. -/
theorem test_padding_56 :
    (Sha256.paddedBlocks (fun _ => 0) 56).map (fun b => (b.toList.drop 56)) =
      [[0x80, 0, 0, 0, 0, 0, 0, 0], [0, 0, 0, 0, 0, 0, 0x01, 0xc0]] := by decide +kernel

/-- §2.5, the rows of 0x12345678 and 0x510e527f. -/
theorem test_mixing :
    Sha256.bigSigma0 0x12345678 = 0x66146474 ∧ Sha256.bigSigma1 0x12345678 = 0x3561abda ∧
    Sha256.smallSigma0 0x12345678 = 0xe7fce6ee ∧ Sha256.smallSigma1 0x12345678 = 0xa1f78649 ∧
    Sha256.ch 0x510e527f 0x9b05688c 0x1f83d9ab = 0x1f85c98c ∧ Sha256.maj 0x510e527f 0x9b05688c 0x1f83d9ab = 0x1b0758af := by
  decide

/-! ### RAND_U64 and RAND_BYTES -/

/-- V-E8. -/
theorem test_randU64_hardware :
    (ok (exec .randU64 { demo with rngScript := [.hardware true 0xdeadbeefcafef00d] })).map (fun s => (s.result, s.entropy)) =
      some (0xdeadbeefcafef00d, ⟨1, 2, 3, 4⟩) := by decide

/-- V-E9. -/
theorem test_randU64_failed :
    (ok (exec .randU64 { demo with rngScript := [.hardware false 0x1111111111111111] })).map (fun s => (s.result, s.entropy)) =
      some (0x0000202500000001, ⟨0x2025, 1, 2, 3⟩) := by decide

/-- V-E7, LEN = 11. -/
theorem test_randBytes_11 :
    (ok (exec .randBytes { demo with dst := 0x3000, len := 11, rngScript := off })).map (fun s => (s.mem, s.entropy)) =
      some ([(0x3000, 0x01), (0x3004, 0x25), (0x3005, 0x20), (0x3008, 0x25), (0x3009, 0x20)], ⟨0x383e, 0x2025, 1, 2⟩) := by
  decide +kernel

/-- V-E11: a hardware word, a failed draw, an absent one. -/
theorem test_randBytes_mixed :
    (ok (exec .randBytes { demo with
      dst := 0x3000, len := 20
      rngScript := [.hardware true 0x0123456789abcdef, .hardware false 7, .unavailable] })).map
        (fun s => ((List.range 21).map fun j => Memory.read s.mem (0x3000 + j), s.entropy, s.result)) =
      some ([0xef, 0xcd, 0xab, 0x89, 0x67, 0x45, 0x23, 0x01, 0x01, 0, 0, 0, 0x25, 0x20, 0, 0, 0x25, 0x20, 0, 0, 0],
        ⟨0x383e, 0x2025, 1, 2⟩, 0) := by decide +kernel

/-- V-E6, the two truncation corners. -/
theorem test_fallback_truncation :
    EntropyState.next ⟨0xffffffff, 0xffffffff, 0xffffffff, 0xffffffff⟩ = ⟨0xffffe7f8, 0xffffffff, 0xffffffff, 0xffffffff⟩ ∧
    (EntropyState.next ⟨0x80000000, 0, 0, 0⟩).output = 0x8000100080000000 := by decide

/-! ### Faults -/

/-- V-HF2 (wrap), V-HF4 (length before buffer), V-HF5 (not admitted), V-HF6 (overlaps the window). -/
theorem test_hash_faults :
    (ok (exec .hash { demo with src := 0xfffffffffffffffe, len := 3 })).map (fun s => s.status) = some 0x21 ∧
    (ok (exec .hash { demo with src := 0, len := 0x2000000000000000 })).map (fun s => s.status) = some 0x31 ∧
    (ok (exec .hash { demo with src := 0x1000, len := 0x1fffffffffffffff })).map (fun s => s.status) = some 0x21 ∧
    (ok (exec .hash { demo with src := 0x40000040, len := 16 })).map (fun s => s.status) = some 0x21 := by decide

/-- V-HF3: `A + N` = 2^64 exactly is no wrap. -/
theorem test_no_wrap_at_the_top : hashCheck { demo with src := 0xfffffffffffffffd, len := 3 } = none := by decide

/-- V-D6 to V-D11, and a misaligned access. -/
theorem test_illegal_accesses :
    (ok (step (access demo (.regWrite 0x00 8 1)))).map (fun s => s.status) = some 0x41 ∧
    (ok (step (access demo (.regRead 0x00 4)))).map (fun s => s.status) = some 0x41 ∧
    (ok (step (access demo (.regWrite 0x04 4 0)))).map (fun s => s.status) = some 0x41 ∧
    (ok (step (access demo (.regRead 0x08 4)))).map (fun s => s.status) = some 0x41 ∧
    (ok (step (access demo (.regRead 0x28 1)))).map (fun s => s.status) = some 0x41 ∧
    (ok (step (access demo (.regRead 0x48 4)))).map (fun s => s.status) = some 0x41 ∧
    (ok (step (access demo (.regRead 0x2a 4)))).map (fun s => s.status) = some 0x41 := by decide

/-- V-D12 and P4, steps 3 to 6: in mode FAULTED a command and an operand write are ignored, and the first cause stays. -/
theorem test_faulted_block :
    (ok (step (access faulted (.regWrite 0x00 4 2)))).map (fun s => (s.result, s.entropy, s.status)) = some (0, ⟨1, 2, 3, 4⟩, 0x11) ∧
    (ok (step (access faulted (.regWrite 0x10 8 3)))).map (fun s => s.len) = some 0 ∧
    (ok (step (access faulted (.regWrite 0x04 4 0)))).map (fun s => s.status) = some 0x11 ∧
    (ok (step (access faulted (.regRead 0x04 4)))).map (fun s => s.reply) = some (.word32 0x11) := by decide

/-- R149 (a) and (b). -/
theorem test_races :
    isFault (step (access { demo with sequence := some 1 } (.regRead 0x04 4))) (.race .interleavedSequences) = true ∧
    isFault (step (abc.withAccess ⟨0, true, .regWrite 0x00 4 1, [⟨0x1002, some 0⟩]⟩)) (.race .bufferTouched) = true := by decide

/-- R147: legality comes before RACE, so an illegal access by another context faults the block; an illegal CMD access is not decoded. -/
theorem test_legality_first :
    (ok (step (access { demo with sequence := some 1 } (.regRead 0x48 4)))).map (fun s => (s.status, s.sequence)) =
      some (0x41, some 1) ∧
    (ok (step (access { demo with sequence := some 1 } (.regWrite 0x00 8 4)))).map (fun s => s.status) = some 0x41 ∧
    (ok (step (access { demo with sequence := some 1 } (.memRead 0x40000008)))).map (fun s => s.status) = some 0x41 := by decide

/-- R55, R146: another agent's reach into the window faults the block after the host's command, and its store outside lands. -/
theorem test_other_agents :
    (ok (step ({ demo with rngScript := [.hardware true 5] }.withAccess
      ⟨0, true, .regWrite 0x00 4 2, [⟨0x4000007f, none⟩, ⟨0x500, some 7⟩]⟩))).map
        (fun s => (s.result, s.status, s.mem)) = some (5, 0x41, [(0x500, 7)]) := by decide

/-- R160: a block reset leaves mode FAULTED and loads the seed. -/
theorem test_reset :
    (ok (step { faulted with inputs := [.blockReset], entropy := ⟨9, 9, 9, 9⟩ })).map (fun s => (s.mode, s.status, s.entropy)) =
      some (.run, 0, ⟨1, 2, 3, 4⟩) := by decide

/-! ### Witnesses: the hypotheses of each statement, met -/

theorem witness_DecodeOfEncode : Instr.randBytes.wf = true := by decide

theorem witness_DecodeIsTotal :
    (0x00000101 : Word32).toNat / 256 ≠ 0 ∧ (0x00000001 : Word32).toNat / 256 = 0 ∧ (0x00000001 : Word32).toNat % 256 = 1 ∧
    (0x00000002 : Word32).toNat % 256 = 2 ∧ (0x00000003 : Word32).toNat % 256 = 3 ∧ (0x00000004 : Word32).toNat / 256 = 0 ∧
    4 ≤ (0x00000004 : Word32).toNat % 256 ∧ (0x00000000 : Word32).toNat % 256 = 0 := by decide

theorem witness_StepRunsDecodedCommand : decode 0x00000003 = .ok .randBytes := by decide

theorem witness_IllegalWordFaults : demo.mode = .run ∧ (4 : Word32) ≠ 1 ∧ (4 : Word32) ≠ 2 ∧ (4 : Word32) ≠ 3 := by decide

theorem witness_NothingPendingKeepsState : demo.inputs = [] := by decide

/-- HashReady, at a message of three bytes, at the empty one, and at one that ends at the top of the address space. -/
theorem witness_HashReady :
    HashReady abc ∧ HashReady demo ∧ HashReady { demo with src := 0xfffffffffffffffd, len := 3 } :=
  ⟨⟨rfl, by decide, .inr ⟨by decide, by decide⟩⟩, ⟨rfl, by decide, .inl rfl⟩,
    ⟨rfl, by decide, .inr ⟨by decide, by decide⟩⟩⟩

/-- The faulting clauses of HashWritesDigestOfMessage and BadBufferFaults, each at its boundary. -/
theorem witness_hash_fault_clauses :
    demo.mode = .run ∧ 2 ^ 61 - 1 < (0x2000000000000000 : Word64).toNat ∧
    (0x1fffffffffffffff : Word64).toNat ≤ 2 ^ 61 - 1 ∧ (0x1fffffffffffffff : Word64) ≠ 0 ∧
    2 ^ 64 < (0xfffffffffffffffe : Word64).toNat + (3 : Word64).toNat ∧
    admits demo.params ⟨0x1000, 0x1fffffffffffffff, .read⟩ = false ∧ admits demo.params ⟨0x3000, 12, .write⟩ = false := by decide

/-- Two states that differ in much but hold one message. -/
theorem witness_HashDependsOnMessageOnly :
    HashReady abc ∧ HashReady { abc with digest := Vector.replicate 8 7, entropy := ⟨9, 9, 9, 9⟩ } ∧
    messageBytes abc = messageBytes { abc with digest := Vector.replicate 8 7, entropy := ⟨9, 9, 9, 9⟩ } :=
  ⟨witness_HashReady.1, ⟨rfl, by decide, .inr ⟨by decide, by decide⟩⟩, rfl⟩

theorem witness_HashFrame : ∃ t, exec .hash abc = .next t := exec_next .hash abc

/-- A state on which HASH is not ready, for the frame's last clause. -/
theorem witness_not_HashReady : ¬HashReady { demo with len := 1 } := by
  rintro ⟨_, _, h | ⟨_, h⟩⟩
  · exact absurd h (by decide)
  · exact absurd h (by decide)

theorem witness_PaddedMessageLayout : 2 ^ 61 - 1 ≤ 2 ^ 61 - 1 ∧ 119 ≤ 2 ^ 61 - 1 := by decide

theorem witness_BlockCount : 55 % 64 ≤ 55 ∧ 56 ≤ 56 % 64 := by decide

theorem witness_ScheduleRecurrence : 16 < 64 ∧ 16 ≤ 16 ∧ 63 < 64 := by decide

theorem witness_RotationBits : 0 < 1 ∧ 1 < 32 ∧ 0 < 31 ∧ 31 < 32 := by decide

theorem witness_RandU64TakesOneDraw :
    demo.mode = .run ∧ nextAnswer { demo with rngScript := [.hardware true 5] } = .hardware true 5 ∧
    nextAnswer { demo with rngScript := [.hardware false 5] } = .hardware false 5 ∧
    nextAnswer { demo with rngScript := [.unavailable] } = .unavailable := by decide

theorem witness_FallbackStepIsInjective : (⟨1, 2, 3, 4⟩ : EntropyState) ≠ ⟨0, 0, 0, 0⟩ := by decide

theorem witness_FallbackSequenceReproducible :
    demo.mode = .run ∧ ∀ j ≤ 2, nextAnswer (drawMany j { demo with rngScript := off }) = .unavailable := by
  refine ⟨rfl, fun j hj => ?_⟩
  interval_cases j <;> decide

theorem witness_RandU64Frame : ∃ t, exec .randU64 demo = .next t := exec_next .randU64 demo

/-- FillReady at LEN = 11, at LEN = 0 with any DST, and at the top of the address space; memory rising. -/
theorem witness_FillReady :
    FillReady { demo with dst := 0x3000, len := 11 } ∧ FillReady { demo with dst := 0xffffffffffffffff, len := 0 } ∧
    FillReady { demo with dst := 0xfffffffffffffffd, len := 3 } ∧ abc.mem.Pairwise (fun x y => x.1 < y.1) :=
  ⟨⟨rfl, .inr ⟨by decide, by decide⟩⟩, ⟨rfl, .inl rfl⟩, ⟨rfl, .inr ⟨by decide, by decide⟩⟩, by decide⟩

theorem witness_RandBytesFrame : ∃ t, exec .randBytes { demo with dst := 0x3000, len := 11 } = .next t := exec_next _ _

theorem witness_not_FillReady : ¬FillReady { demo with len := 1 } := by
  rintro ⟨_, h | ⟨_, h⟩⟩
  · exact absurd h (by decide)
  · exact absurd h (by decide)

theorem witness_HashAndDrawsIndependent : HashReady abc ∧ ∃ t, exec .hash abc = .next t := ⟨witness_HashReady.1, exec_next _ _⟩

/-- The overlap clause of BadBufferFaults at the window's last byte. -/
theorem witness_window_overlap :
    (0x7f : Nat) < 0x80 ∧ 0 < (0x40000000 : Word64).toNat ∧
    (0x4000007f : Word64) + BitVec.ofNat 64 0 = demo.params.base + BitVec.ofNat 64 0x7f := by decide

/-- Quiet, with no sequence open and with the event's own context's open, in both modes. -/
theorem witness_Quiet :
    Quiet (access demo (.regRead 0x08 8)) ⟨0, false, .regRead 0x08 8, []⟩ [] ∧
    Quiet (access { faulted with sequence := some 0 } (.regRead 0x44 4)) ⟨0, false, .regRead 0x44 4, []⟩ [] :=
  ⟨⟨rfl, rfl, .inl rfl⟩, ⟨rfl, rfl, .inr rfl⟩⟩

theorem witness_FaultedBlockIgnoresAccesses :
    faulted.mode = .faulted ∧ (Status.cause faulted.status).toNat ≤ 4 ∧ (Reg.digest 7).readable = true ∧
    BitVec.ofNat 7 (Reg.digest 7).off = 0x44 ∧ (Reg.digest 7).bytes = 4 ∧
    (ok (step (access faulted (.regRead 0x00 4)))).isSome = true := by decide

theorem witness_FirstFaultIsKept :
    faulted.mode = .faulted ∧ (∀ rest, (access faulted (.regWrite 0x10 8 3)).inputs ≠ .blockReset :: rest) ∧
    (∀ a v, (BusOp.regWrite 0x10 8 3) ≠ .memWrite a v) ∧
    (ok (step (access faulted (.regWrite 0x10 8 3)))).isSome = true :=
  ⟨rfl, fun rest h => (by cases h), fun a v h => (by cases h), by decide⟩

/-- Both cases of RACE: a legal read by context 0 while context 1's sequence is open; HASH's and RAND_BYTES' words with another agent at
the last byte of the buffer. -/
theorem witness_RacesAreFaults :
    (1 : Nat) ≠ 0 ∧ LegalAccess (.regRead 0x44 4) ∧ LegalAccess (.regWrite 0x18 8 5) ∧
    HashReady abc ∧ WritesCmd (.regWrite 0x00 4 1) 1 ∧
    abc.src.toNat ≤ (0x1002 : Word64).toNat ∧ (0x1002 : Word64).toNat < abc.src.toNat + abc.len.toNat ∧
    FillReady { demo with dst := 0x3000, len := 11 } ∧ WritesCmd (.regWrite 0x00 4 3) 3 ∧
    (0x300a : Word64).toNat < (0x3000 : Word64).toNat + (11 : Word64).toNat :=
  ⟨by decide, .inl ⟨_, _, rfl, by unfold LegalRead; decide⟩, .inr ⟨_, _, _, rfl, by unfold LegalWrite; decide⟩, witness_HashReady.1,
    ⟨1, rfl, by decide⟩, by decide, by decide, witness_FillReady.1, ⟨3, rfl, by decide⟩, by decide⟩

theorem witness_OnlyRacesStop :
    isFault (step (access { demo with sequence := some 1 } (.regRead 0x44 4))) (.race .interleavedSequences) = true ∧
    isFault (step ({ demo with dst := 0x3000, len := 11 }.withAccess ⟨0, true, .regWrite 0x00 4 3, [⟨0x300a, none⟩]⟩))
      (.race .bufferTouched) = true := by decide

/-- An access with another agent storing outside the window, and one with another agent inside it, neither a race. -/
theorem witness_OtherAgentsTakeEffectAfterwards :
    Memory.wf abc.mem ∧
    (∃ t, step (abc.withAccess ⟨0, true, .regWrite 0x00 4 2, []⟩) = .next t ∧ t.mode = .run) ∧
    (ok (step (abc.withAccess ⟨0, true, .regWrite 0x00 4 2, [⟨0x500, some 7⟩]⟩))).isSome = true ∧
    (ok (step (abc.withAccess ⟨0, true, .regWrite 0x00 4 2, [⟨0x40000000, some 7⟩]⟩))).isSome = true ∧
    inWindow abc.params.base 0x500 = false ∧ inWindow abc.params.base 0x40000000 = true ∧
    inWindow abc.params.base 0x4000007f = true ∧ inWindow abc.params.base 0x40000080 = false :=
  ⟨by decide, ⟨_, rfl, rfl⟩, by decide, by decide, by decide, by decide, by decide, by decide⟩

theorem witness_Inv : demo.Inv ∧ abc.Inv ∧ faulted.Inv :=
  ⟨⟨rfl, rfl, by decide⟩, ⟨rfl, rfl, by decide⟩, ⟨⟨.illegalCmd, by decide⟩, rfl, by decide⟩⟩

theorem witness_SingleHostAccessCompletes :
    (access demo (.regRead 0x48 4)).Inv ∧ Quiet (access demo (.regRead 0x48 4)) ⟨0, false, .regRead 0x48 4, []⟩ [] :=
  ⟨⟨rfl, rfl, by decide⟩, ⟨rfl, rfl, .inl rfl⟩⟩

theorem witness_RegisterReadsReturnValues :
    (Status.cause demo.status).toNat ≤ 4 ∧ (0x28 + 4 * (0 : Fin 8).val : Nat) = 0x28 ∧ (0x28 + 4 * (7 : Fin 8).val : Nat) = 0x44 := by
  decide

theorem witness_OperandRegistersReadBack :
    demo.mode = .run ∧ Quiet (access demo (.regWrite 0x18 8 5)) ⟨0, false, .regWrite 0x18 8 5, []⟩ [] ∧
    Quiet ((access demo (.regRead 0x08 8)).withAccess ⟨0, false, .regWrite 0x08 8 5, []⟩) ⟨0, false, .regWrite 0x08 8 5, []⟩
      [.bus ⟨0, false, .regRead 0x08 8, []⟩] :=
  ⟨rfl, ⟨rfl, rfl, .inl rfl⟩, ⟨rfl, rfl, .inl rfl⟩⟩

/-- Accesses outside the table: a read of CMD, the last register read with the wrong width, the first and last reserved offsets, a
write of RESULT. -/
theorem witness_IllegalAccessFaults :
    (∀ p ∈ [((0x00 : BitVec 7), 4), (0x44, 8), (0x48, 4), (0x7f, 1)], ¬LegalRead p.1 p.2) ∧ ¬LegalWrite 0x20 8 ∧
    (access { demo with sequence := some 1 } (.regRead 0x48 4)).inputs = .bus ⟨0, false, .regRead 0x48 4, []⟩ :: [] := by
  unfold LegalRead LegalWrite
  decide

/-- Each clause of ChecksInPriorityOrder: an illegal access, an illegal word, and HASH and RAND_BYTES at their bounds. -/
theorem witness_ChecksInPriorityOrder :
    IllegalAccess (.regWrite 0x00 8 1) ∧ WritesCmd (.regWrite 0x00 4 4) 4 ∧ (4 : Word32) ≠ 3 ∧
    WritesCmd (.regWrite 0x00 4 1) 1 ∧ WritesCmd (.regWrite 0x00 4 3) 3 ∧
    2 ^ 61 - 1 < ({ demo with len := 0x2000000000000000 } : State).len.toNat ∧
    ({ demo with len := 0x1fffffffffffffff } : State).len.toNat ≤ 2 ^ 61 - 1 ∧
    admits demo.params ⟨0, 0x1fffffffffffffff, .read⟩ = false ∧ admits demo.params ⟨0, 0x1fffffffffffffff, .write⟩ = false :=
  ⟨.inr ⟨_, _, _, rfl, by unfold LegalWrite; decide⟩, ⟨4, rfl, by decide⟩, by decide, ⟨1, rfl, by decide⟩, ⟨3, rfl, by decide⟩,
    by decide, by decide, by decide, by decide⟩

/-- At the window's last byte, by context 0 while context 1's sequence is open, in each mode. -/
theorem witness_ByteAccessInWindowFaults :
    (access { demo with sequence := some 1 } (.memRead (demo.params.base + BitVec.ofNat 64 0x7f))).inputs =
      .bus ⟨0, false, .memRead (demo.params.base + BitVec.ofNat 64 0x7f), []⟩ :: [] ∧ 0x7f < 0x80 ∧
    demo.mode = .run ∧ faulted.mode = .faulted :=
  ⟨rfl, by decide, rfl, rfl⟩

/-- A step that changes RESULT, and one that changes DIGEST0..7 by reset. -/
theorem witness_ResultRegistersChange :
    (ok (step (access { demo with rngScript := [.hardware true 5] } (.regWrite 0x00 4 2)))).map (fun s => s.result) = some 5 ∧
    (ok (step { demo with inputs := [.blockReset], digest := Vector.replicate 8 1 })).map (fun s => s.digest.get 0) = some 0 := by
  decide

theorem witness_OnlyFallbackDrawsWriteEntropy :
    (∀ rest, (access { demo with rngScript := off } (.regWrite 0x00 4 2)).inputs ≠ .blockReset :: rest) ∧
    (ok (step (access { demo with rngScript := off } (.regWrite 0x00 4 2)))).map (fun s => (s.entropy, s.draws)) =
      some (⟨0x2025, 1, 2, 3⟩, 1) :=
  ⟨fun rest h => (by cases h), by decide⟩

theorem witness_MemoryChangesOnlyByStoresAndFill :
    (ok (step (access abc (.memWrite 0x1001 9)))).map (fun s => s.mem) = some [(0x1000, 0x61), (0x1001, 9), (0x1002, 0x63)] := by
  decide

theorem witness_ResetValues : ({ demo with inputs := [.blockReset] } : State).inputs = .blockReset :: [] := rfl

theorem witness_HostStoreThenLoad :
    abc.mem.Pairwise (fun x y => x.1 < y.1) ∧ inWindow abc.params.base 0x1001 = false ∧
    ((access abc (.memRead 0x1001)).withAccess ⟨0, false, .memWrite 0x1001 9, []⟩).inputs =
      .bus ⟨0, false, .memWrite 0x1001 9, []⟩ :: .bus ⟨0, false, .memRead 0x1001, []⟩ :: [] := by decide

theorem witness_StepKeepsInvariant : abc.Inv ∧ (ok (step (abc.withFetchWord 32 1))).isSome = true :=
  ⟨witness_Inv.2.1, by decide⟩

theorem witness_ParametersAreFixed : (ok (step (abc.withFetchWord 32 2))).isSome = true := by decide

theorem witness_SafeRunKeepsInvariant : demo.Inv ∧ SafeRun 1 demo demo :=
  ⟨witness_Inv.1, .more 0 demo demo demo rfl rfl (.done demo rfl)⟩

theorem witness_ExcludedCommandsRefused :
    ({ demo with inputs := [.excluded .hashInit] } : State).inputs = .excluded .hashInit :: [] := rfl

theorem witness_ReservedCauseRefused :
    Quiet (access { demo with status := 0x51 } (.regRead 0x04 4)) ⟨0, false, .regRead 0x04 4, []⟩ [] ∧
    4 < (Status.cause 0x51).toNat :=
  ⟨⟨rfl, rfl, .inl rfl⟩, by decide⟩

theorem witness_PseudoInstructionsAssemble : Stmt.rd32 (.digest 7) ∈ Pseudo.digest.expand := by decide

end Sys2Proof.Tests
end

section
/-! PROOFS. What 00_scope.md fixes: rotation and the mixing functions bit by bit, big-endian packing, and the parameters (R7, R10, R12). -/

namespace Sys2Proof.Machine

/-! ### Rotation and the mixing functions -/

/-- R10: the low `32 - n` bits of a rotation come from the right shift, the others from the left shift. -/
theorem getLsbD_rotr (a : Word32) {n i : Nat} (hn0 : 0 < n) (hn : n < 32) (hi : i < 32) :
    (rotr a n).getLsbD i = a.getLsbD ((i + n) % 32) := by
  simp only [rotr, BitVec.getLsbD_or, BitVec.getLsbD_ushiftRight, BitVec.getLsbD_shiftLeft]
  by_cases h : i + n < 32
  · have hlow : i < 32 - n := by omega
    simp [hlow, Nat.mod_eq_of_lt h, Nat.add_comm n i]
  · have hhigh : ¬i < 32 - n := by omega
    have hmod : (i + n) % 32 = i - (32 - n) := by omega
    have hout : a.getLsbD (n + i) = false := BitVec.getLsbD_of_ge a _ (by omega)
    simp [hhigh, hmod, hout, hi]

/-- A logical right shift takes 0 in from the left. -/
theorem getLsbD_ushiftRight_eq_guarded (x : Word32) (n i : Nat) :
    (x >>> n).getLsbD i = (decide (i + n < 32) && x.getLsbD (i + n)) := by
  rw [BitVec.getLsbD_ushiftRight, Nat.add_comm n i]
  by_cases h : i + n < 32
  · simp [h]
  · simp [h, BitVec.getLsbD_of_ge x (i + n) (by omega)]

/-- The bits of an XOR of three rotations, the form of R89's functions. -/
theorem getLsbD_rotr_xor_rotr_xor_rotr (x : Word32) {p q r i : Nat} (hp : 0 < p ∧ p < 32) (hq : 0 < q ∧ q < 32)
    (hr : 0 < r ∧ r < 32) (hi : i < 32) :
    (rotr x p ^^^ rotr x q ^^^ rotr x r).getLsbD i =
      (x.getLsbD ((i + p) % 32) ^^ x.getLsbD ((i + q) % 32) ^^ x.getLsbD ((i + r) % 32)) := by
  rw [BitVec.getLsbD_xor, BitVec.getLsbD_xor, getLsbD_rotr x hp.1 hp.2 hi, getLsbD_rotr x hq.1 hq.2 hi,
    getLsbD_rotr x hr.1 hr.2 hi]

/-- The bits of an XOR of two rotations and a logical shift, the form of R90's functions. -/
theorem getLsbD_rotr_xor_rotr_xor_ushiftRight (x : Word32) {p q : Nat} (n : Nat) {i : Nat} (hp : 0 < p ∧ p < 32)
    (hq : 0 < q ∧ q < 32) (hi : i < 32) :
    (rotr x p ^^^ rotr x q ^^^ (x >>> n)).getLsbD i =
      (x.getLsbD ((i + p) % 32) ^^ x.getLsbD ((i + q) % 32) ^^ (decide (i + n < 32) && x.getLsbD (i + n))) := by
  rw [BitVec.getLsbD_xor, BitVec.getLsbD_xor, getLsbD_rotr x hp.1 hp.2 hi, getLsbD_rotr x hq.1 hq.2 hi,
    getLsbD_ushiftRight_eq_guarded]

/-- Settles O17: each mixing function has one of the two forms above, with the amounts of R89 and R90. -/
theorem rotationBits : Obligations.RotationBits := by
  refine ⟨fun a n i hn0 hn hi => getLsbD_rotr a hn0 hn hi, fun x i hi => ⟨?_, ?_, ?_, ?_⟩⟩
  · exact getLsbD_rotr_xor_rotr_xor_rotr x (by decide) (by decide) (by decide) hi
  · exact getLsbD_rotr_xor_rotr_xor_rotr x (by decide) (by decide) (by decide) hi
  · exact getLsbD_rotr_xor_rotr_xor_ushiftRight x 3 (by decide) (by decide) hi
  · exact getLsbD_rotr_xor_rotr_xor_ushiftRight x 10 (by decide) (by decide) hi

/-! ### Big-endian packing -/

/-- Appending a byte on the right moves the word up by eight bits. -/
theorem toNat_append_byte {n : Nat} (x : BitVec n) (b : Byte) : (x ++ b).toNat = x.toNat * 2 ^ 8 + b.toNat := by
  rw [BitVec.toNat_append, ← Nat.shiftLeft_add_eq_or_of_lt b.isLt, Nat.shiftLeft_eq]

/-- R12: BE32's first byte is the most significant. -/
theorem toNat_be32 (b0 b1 b2 b3 : Byte) :
    (be32 b0 b1 b2 b3).toNat = b0.toNat * 2 ^ 24 + b1.toNat * 2 ^ 16 + b2.toNat * 2 ^ 8 + b3.toNat := by
  unfold be32
  rw [toNat_append_byte, toNat_append_byte, toNat_append_byte]
  omega

/-- R12: a word is the packing of its own bytes, from byte 3 down to byte 0. -/
theorem be32_byteOf32 (v : Word32) : be32 (byteOf32 v 3) (byteOf32 v 2) (byteOf32 v 1) (byteOf32 v 0) = v := by
  have top16 : byteOf32 v 3 ++ byteOf32 v 2 = v.extractLsb' 16 16 := BitVec.extractLsb'_append_extractLsb'_eq_extractLsb' rfl
  have top24 : v.extractLsb' 16 16 ++ byteOf32 v 1 = v.extractLsb' 8 24 := BitVec.extractLsb'_append_extractLsb'_eq_extractLsb' rfl
  have all32 : v.extractLsb' 8 24 ++ byteOf32 v 0 = v.extractLsb' 0 32 := BitVec.extractLsb'_append_extractLsb'_eq_extractLsb' rfl
  rw [be32, top16, top24, all32, BitVec.extractLsb'_eq_self]

/-- R53: digest byte `4i + r` is byte `3 - r` of the i-th digest word. -/
theorem digestByte_eq_byteOf32 (x : Words8) (i : Fin 8) {j : Fin 32} {r : Nat} (hr : r < 4) (hj : j.val = 4 * i.val + r) :
    digestByte x j = byteOf32 (x.get i) (3 - r) := by
  have hword : (⟨j.val / 4, by omega⟩ : Fin 8) = i := Fin.ext (by simp only; omega)
  have hbyte : j.val % 4 = r := by omega
  rw [digestByte, hword, hbyte]

/-- Settles O20: four digest bytes in order are bytes 3 to 0 of their word. -/
theorem digestSerialisation : Obligations.DigestSerialisation := by
  refine ⟨toNat_be32, fun x i => ?_⟩
  rw [digestByte_eq_byteOf32 x i (r := 0) (by decide) rfl, digestByte_eq_byteOf32 x i (r := 1) (by decide) rfl,
    digestByte_eq_byteOf32 x i (r := 2) (by decide) rfl, digestByte_eq_byteOf32 x i (r := 3) (by decide) rfl]
  exact be32_byteOf32 (x.get i)

/-! ### The parameters -/

@[simp] theorem drawMany_params (n : Nat) (s : State) : (drawMany n s).params = s.params := by rw [drawMany_frame]

@[simp] theorem randBytesEffect_params (s : State) : (randBytesEffect s).params = s.params := by
  rw [randBytesEffect_frame]
  exact drawMany_params _ s

@[simp] theorem hashEffect_params (s : State) : (hashEffect s).params = s.params := by rw [hashEffect_frame]

@[simp] theorem illegalAccess_params (s : State) : (illegalAccess s).params = s.params := by
  rw [illegalAccess, raiseFault_params]

@[simp] theorem writeOperand_params (r : Reg) (v : Word64) (s : State) : (writeOperand r v s).params = s.params := by
  rw [writeOperand_frame]

/-- A command keeps the parameters when its effect does: ignoring it and its fault keep them anyway. -/
theorem runCommand_params {check : Option Cause} {effect s t : State} (he : effect.params = s.params)
    (h : runCommand check effect s = .next t) : t.params = s.params := by
  rcases runCommand_cases h with ⟨_, rfl⟩ | ⟨_, c, _, rfl⟩ | ⟨_, _, rfl⟩
  · rfl
  · exact raiseFault_params c s
  · exact he

theorem exec_params {i : Instr} {s t : State} (h : exec i s = .next t) : t.params = s.params := by
  cases i with
  | hash => exact runCommand_params (hashEffect_params s) h
  | randU64 => exact runCommand_params (check := none) (randU64Effect_params s) h
  | randBytes => exact runCommand_params (randBytesEffect_params s) h

theorem issueCommand_params {w : Word32} {s t : State} (h : issueCommand w s = .next t) : t.params = s.params := by
  rcases issueCommand_cases h with ⟨_, rfl⟩ | ⟨i, _, hx⟩
  · exact raiseFault_params _ s
  · exact exec_params hx

theorem busOp_params {op : BusOp} {s t : State} (h : busOp op s = .next t) : t.params = s.params := by
  rcases busOp_cases h with rfl | ⟨r, rfl⟩ | ⟨r, v, rfl⟩ | ⟨o, n, v, _, _, hc⟩ | ⟨a, v, _, rfl⟩
  · exact illegalAccess_params s
  · rfl
  · exact writeOperand_params r v _
  · exact (issueCommand_params hc).trans rfl
  · rfl

theorem busEvent_params {e : BusEvent} {s t : State} (h : busEvent e s = .next t) : t.params = s.params := by
  obtain ⟨_, _, t', hop, rfl⟩ := busEvent_cases h
  rw [applyOthers_params, busOp_params hop, accessState_params]

/-- Settles O50: nothing pending, a block reset and a host access each keep the parameters. -/
theorem parametersAreFixed : Obligations.ParametersAreFixed := by
  intro s t h
  rcases step_cases h with ⟨_, rfl⟩ | ⟨rest, _, rfl⟩ | ⟨e, rest, _, he⟩
  · rfl
  · exact blockReset_params _
  · exact (busEvent_params he).trans rfl

end Sys2Proof.Machine
end

section
/-! PROOFS. What 10_state.md fixes: the register map, what each register access does in both modes, what other agents do, and the
invariant of the block (R22-R31, R40). -/

namespace Sys2Proof.Machine

/-! ### The register map (R22) -/

/-- Every register is found at its own offset, so no two registers share one. -/
theorem Reg.atOff_off (r : Reg) : Reg.atOff (BitVec.ofNat 7 r.off) = some r := by
  cases r with
  | digest i => revert i; decide
  | _ => rfl

/-- Every register starts inside the window. -/
theorem Reg.off_lt (r : Reg) : r.off < 2 ^ 7 := by
  cases r with
  | digest i => simp only [Reg.off]; omega
  | _ => decide

theorem Reg.atOff_eq_some {o : BitVec 7} {r : Reg} : Reg.atOff o = some r ↔ o.toNat = r.off := by
  constructor
  · intro h
    have hoff := List.find?_some h
    simpa using (beq_iff_eq.1 hoff).symm
  · intro h
    have ho : o = BitVec.ofNat 7 r.off := by rw [← h, BitVec.ofNat_toNat, BitVec.setWidth_eq]
    rw [ho, Reg.atOff_off]

theorem Reg.forRead_eq_some {o : BitVec 7} {n : Nat} {r : Reg} :
    Reg.forRead o n = some r ↔ o.toNat = r.off ∧ n = r.bytes ∧ r.readable = true := by
  simp only [Reg.forRead, Option.filter_eq_some_iff, Reg.atOff_eq_some, Bool.and_eq_true, beq_iff_eq, eq_comm (a := n)]

theorem Reg.forWrite_eq_some {o : BitVec 7} {n : Nat} {r : Reg} :
    Reg.forWrite o n = some r ↔ o.toNat = r.off ∧ n = r.bytes ∧ r.writable = true := by
  simp only [Reg.forWrite, Option.filter_eq_some_iff, Reg.atOff_eq_some, Bool.and_eq_true, beq_iff_eq, eq_comm (a := n)]

/-- A register's own offset and width name it in a read, when it may be read. -/
theorem Reg.forRead_off {r : Reg} (hr : r.readable = true) : Reg.forRead (BitVec.ofNat 7 r.off) r.bytes = some r :=
  Reg.forRead_eq_some.2 ⟨Nat.mod_eq_of_lt r.off_lt, rfl, hr⟩

theorem Reg.forWrite_off {r : Reg} (hr : r.writable = true) : Reg.forWrite (BitVec.ofNat 7 r.off) r.bytes = some r :=
  Reg.forWrite_eq_some.2 ⟨Nat.mod_eq_of_lt r.off_lt, rfl, hr⟩

/-- A read that names a register is one that R22's table allows. -/
theorem legalRead_of_forRead {o : BitVec 7} {n : Nat} {r : Reg} (h : Reg.forRead o n = some r) : LegalRead o n := by
  obtain ⟨ho, hn, hr⟩ := Reg.forRead_eq_some.1 h
  unfold LegalRead
  cases r with
  | cmd => cases hr
  | _ => simp only [Reg.off, Reg.bytes] at ho hn; omega

/-- A write that names a register is one that R22's table allows. -/
theorem legalWrite_of_forWrite {o : BitVec 7} {n : Nat} {r : Reg} (h : Reg.forWrite o n = some r) : LegalWrite o n := by
  obtain ⟨ho, hn, hr⟩ := Reg.forWrite_eq_some.1 h
  unfold LegalWrite
  cases r with
  | status | result | digest i => cases hr
  | _ => simp only [Reg.off, Reg.bytes] at ho hn; omega

theorem forRead_eq_none {o : BitVec 7} {n : Nat} (h : ¬LegalRead o n) : Reg.forRead o n = none :=
  Option.eq_none_iff_forall_ne_some.2 fun _ hr => h (legalRead_of_forRead hr)

theorem forWrite_eq_none {o : BitVec 7} {n : Nat} (h : ¬LegalWrite o n) : Reg.forWrite o n = none :=
  Option.eq_none_iff_forall_ne_some.2 fun _ hr => h (legalWrite_of_forWrite hr)

/-- No register is one byte wide. -/
theorem not_legalRead_byte (o : BitVec 7) : ¬LegalRead o 1 := by unfold LegalRead; omega

theorem not_legalWrite_byte (o : BitVec 7) : ¬LegalWrite o 1 := by unfold LegalWrite; omega

/-! ### Routing -/

/-- Routing makes only byte accesses, so a wider register write is the host's own. -/
theorem eq_of_route_eq_regWrite {base : Word64} {op : BusOp} {o : BitVec 7} {n : Nat} {v : Word64}
    (h : route base op = .regWrite o n v) (hn : n ≠ 1) : op = .regWrite o n v := by
  cases op with
  | regRead o' n' => cases h
  | regWrite o' n' v' => exact h
  | memRead a => simp only [route] at h; split at h <;> cases h
  | memWrite a b =>
    simp only [route] at h
    split at h
    · cases h; exact absurd rfl hn
    · cases h

/-- An access that is routed to a CMD write is the host's CMD write (R24). -/
theorem eq_cmdWrite_of_route {base : Word64} {op : BusOp} {o : BitVec 7} {n : Nat} {v : Word64}
    (h : route base op = .regWrite o n v) (hc : Reg.forWrite o n = some .cmd) : op = .regWrite 0x00 4 v := by
  obtain ⟨ho, rfl, _⟩ := Reg.forWrite_eq_some.1 hc
  obtain rfl : o = 0x00 := BitVec.eq_of_toNat_eq ho
  exact eq_of_route_eq_regWrite h (by decide)

/-- The 0x80 addresses from BASE on are inside the window (R51). -/
theorem inWindow_base_add (base : Word64) {k : Nat} (hk : k < 0x80) : inWindow base (base + BitVec.ofNat 64 k) = true := by
  have hsub : base + BitVec.ofNat 64 k - base = BitVec.ofNat 64 k := by rw [BitVec.add_comm, BitVec.add_sub_cancel]
  rw [inWindow, hsub, BitVec.toNat_ofNat]
  exact decide_eq_true (by unfold Config.windowSize; omega)

/-! ### Commands -/

/-- RSV and OPC together are the whole command word (R70). -/
theorem rsvField_append_opcField (w : Word32) : rsvField w ++ opcField w = w := by
  have hall : w.extractLsb' 8 24 ++ w.extractLsb' 0 8 = w.extractLsb' 0 32 :=
    BitVec.extractLsb'_append_extractLsb'_eq_extractLsb' rfl
  rw [rsvField, opcField, hall, BitVec.extractLsb'_eq_self]

theorem eq_opcode_of_instrOfOpcode {opc : BitVec 8} {i : Instr} (h : instrOfOpcode opc = some i) : opc = i.opcode := by
  unfold instrOfOpcode at h
  split at h
  · cases h; assumption
  · split at h
    · cases h; assumption
    · split at h
      · cases h; assumption
      · cases h

/-- A word that decodes to a command is the command's own word (R72). -/
theorem eq_encode_of_decode {w : Word32} {i : Instr} (h : decode w = .ok i) : w = encode i := by
  unfold decode at h
  split at h
  · cases h
  · rename_i hrsv
    split at h
    · rename_i hi
      cases h
      rw [← rsvField_append_opcField w, of_not_not hrsv, eq_opcode_of_instrOfOpcode hi, encode]
    · cases h

/-- Everything a command can do: nothing in mode FAULTED; in mode RUN its fault alone, or its own effect with its check passed. -/
theorem exec_cases {i : Instr} {s t : State} (h : exec i s = .next t) :
    (s.mode = .faulted ∧ t = s) ∨ (s.mode = .run ∧ ∃ c, t = raiseFault c s) ∨
    (i = .hash ∧ s.mode = .run ∧ hashCheck s = none ∧ t = hashEffect s) ∨
    (i = .randU64 ∧ s.mode = .run ∧ t = randU64Effect s) ∨
    (i = .randBytes ∧ s.mode = .run ∧ bufferCheck s.params (randBuffer s) = none ∧ t = randBytesEffect s) := by
  cases i with
  | hash =>
    rcases runCommand_cases h with hkeep | ⟨hm, c, _, ht⟩ | ⟨hm, hc, ht⟩
    · exact .inl hkeep
    · exact .inr (.inl ⟨hm, c, ht⟩)
    · exact .inr (.inr (.inl ⟨rfl, hm, hc, ht⟩))
  | randU64 =>
    rcases runCommand_cases (check := none) h with hkeep | ⟨hm, c, _, ht⟩ | ⟨hm, _, ht⟩
    · exact .inl hkeep
    · exact .inr (.inl ⟨hm, c, ht⟩)
    · exact .inr (.inr (.inr (.inl ⟨rfl, hm, ht⟩)))
  | randBytes =>
    rcases runCommand_cases h with hkeep | ⟨hm, c, _, ht⟩ | ⟨hm, hc, ht⟩
    · exact .inl hkeep
    · exact .inr (.inl ⟨hm, c, ht⟩)
    · exact .inr (.inr (.inr (.inr ⟨rfl, hm, hc, ht⟩)))

/-- All a RAND_BYTES that runs can change, written on the state it started from (R127). -/
theorem randBytesEffect_eq (s : State) :
    randBytesEffect s =
      { s with mem := (randBytesEffect s).mem, entropy := (randBytesEffect s).entropy
               rngScript := (randBytesEffect s).rngScript, draws := (randBytesEffect s).draws } := by
  rw [randBytesEffect_frame, drawMany_frame]

/-- No command writes an operand register (R71). -/
theorem exec_operands {i : Instr} {s t : State} (h : exec i s = .next t) : t.src = s.src ∧ t.len = s.len ∧ t.dst = s.dst := by
  rcases exec_cases h with ⟨_, rfl⟩ | ⟨_, c, rfl⟩ | ⟨_, _, _, rfl⟩ | ⟨_, _, rfl⟩ | ⟨_, _, _, rfl⟩
  · exact ⟨rfl, rfl, rfl⟩
  · exact ⟨raiseFault_src c s, raiseFault_len c s, raiseFault_dst c s⟩
  · rw [hashEffect_frame]; exact ⟨rfl, rfl, rfl⟩
  · exact ⟨rfl, rfl, rfl⟩
  · rw [randBytesEffect_eq]; exact ⟨rfl, rfl, rfl⟩

/-- RESULT is RAND_U64's alone (R126). -/
theorem exec_result {i : Instr} {s t : State} (h : exec i s = .next t) (hi : i ≠ .randU64) : t.result = s.result := by
  rcases exec_cases h with ⟨_, rfl⟩ | ⟨_, c, rfl⟩ | ⟨_, _, _, rfl⟩ | ⟨rfl, _⟩ | ⟨_, _, _, rfl⟩
  · rfl
  · exact raiseFault_result c s
  · rw [hashEffect_frame]
  · exact absurd rfl hi
  · rw [randBytesEffect_eq]

/-- DIGEST0..7 are HASH's alone (R99). -/
theorem exec_digest {i : Instr} {s t : State} (h : exec i s = .next t) (hi : i ≠ .hash) : t.digest = s.digest := by
  rcases exec_cases h with ⟨_, rfl⟩ | ⟨_, c, rfl⟩ | ⟨rfl, _⟩ | ⟨_, _, rfl⟩ | ⟨_, _, _, rfl⟩
  · rfl
  · exact raiseFault_digest c s
  · exact absurd rfl hi
  · rfl
  · rw [randBytesEffect_eq]

/-! ### Illegal accesses (R23, R146) -/

theorem illegalAccess_run {s : State} (h : s.mode = .run) :
    illegalAccess s = { s with reply := .illegal, status := 0x00000041, mode := .faulted } :=
  raiseFault_run (s := { s with reply := .illegal }) h .badRegAccess

theorem illegalAccess_faulted {s : State} (h : s.mode = .faulted) : illegalAccess s = { s with reply := .illegal } :=
  raiseFault_faulted (s := { s with reply := .illegal }) h .badRegAccess

/-- What a step does with a register access outside R22's table while no other agent acts. -/
theorem step_of_illegalAccess {s : State} {e : BusEvent} {rest : List Input} (hi : s.inputs = .bus e :: rest)
    (ho : e.others = []) (hr : IllegalAccess (route s.params.base e.op)) :
    step s = .next (illegalAccess { s with inputs := rest }) := by
  have hnone := step_of_illegal hi (hr.imp
    (fun ⟨o, n, hop, hn⟩ => ⟨o, n, hop, forRead_eq_none hn⟩)
    (fun ⟨o, n, v, hop, hn⟩ => ⟨o, n, v, hop, forWrite_eq_none hn⟩))
  rwa [ho, applyOthers_nil] at hnone

/-- Routing leaves a register access as it is. -/
theorem route_of_illegalAccess (base : Word64) {op : BusOp} (h : IllegalAccess op) : route base op = op := by
  rcases h with ⟨o, n, rfl, _⟩ | ⟨o, n, v, rfl, _⟩ <;> rfl

/-- A byte access inside the window is routed to an 8-bit register access, which no register has (R51). -/
theorem illegalAccess_route_byte (base : Word64) {a : Word64} (ha : inWindow base a = true) {op : BusOp}
    (hop : op = .memRead a ∨ ∃ v, op = .memWrite a v) : IllegalAccess (route base op) := by
  rcases hop with rfl | ⟨v, rfl⟩
  · exact .inl ⟨_, 1, if_pos ha, not_legalRead_byte _⟩
  · exact .inr ⟨_, 1, _, if_pos ha, not_legalWrite_byte _⟩

/-- Settles O41: the access is illegal before anything else is looked at. -/
theorem illegalAccessFaults : Obligations.IllegalAccessFaults := by
  intro s e rest hm hi ho hill
  have hroute : IllegalAccess (route s.params.base e.op) := by rwa [route_of_illegalAccess _ hill]
  refine ⟨s.sequence, .illegal, (step_of_illegalAccess hi ho hroute).trans (congrArg _ ?_)⟩
  exact illegalAccess_run (s := { s with inputs := rest }) hm

/-- Settles O42: routing makes the byte access an illegal register access, in either mode. -/
theorem byteAccessInWindowFaults : Obligations.ByteAccessInWindowFaults := by
  intro s e rest k hi ho hk hop
  have hstep := step_of_illegalAccess hi ho (illegalAccess_route_byte _ (inWindow_base_add _ hk) hop)
  refine ⟨fun hm => ⟨.illegal, hstep.trans (congrArg _ ?_)⟩, fun hm => ⟨.illegal, hstep.trans (congrArg _ ?_)⟩⟩
  · exact illegalAccess_run (s := { s with inputs := rest }) hm
  · exact illegalAccess_faulted (s := { s with inputs := rest }) hm

/-! ### Legal accesses that nothing disturbs -/

/-- What a step does with an undisturbed legal register access: the access, with its sequence noted. -/
theorem step_of_legal {s : State} {e : BusEvent} {rest : List Input} (hq : Quiet s e rest)
    (hr : route s.params.base e.op = e.op) (hl : e.op.legalInWindow = true) :
    step s = busOp e.op { s with inputs := rest, sequence := sequenceAfter e } := by
  obtain ⟨hi, ho, hseq⟩ := hq
  rw [step_of_quiet hi ho hseq, hr, accessState, if_pos hl]

/-- A read that names a register answers its value; a reserved cause in STATUS is the one exception (I11). -/
theorem regRead_of_forRead {o : BitVec 7} {n : Nat} {r : Reg} {s : State} (h : Reg.forRead o n = some r)
    (hc : r = .status → (Status.cause s.status).toNat ≤ 4) : regRead o n s = .next { s with reply := r.value s } := by
  cases r with
  | status =>
    have hfine : Status.causeReserved s.status = false := decide_eq_false (by have := hc rfl; omega)
    simp [regRead, h, hfine, Reg.value]
  | _ => simp [regRead, h]

/-- What an undisturbed read at a readable register's offset and width does. -/
theorem step_regRead {s : State} {e : BusEvent} {rest : List Input} (hq : Quiet s e rest) (r : Reg) (hr : r.readable = true)
    (hc : r = .status → (Status.cause s.status).toNat ≤ 4) (hop : e.op = .regRead (BitVec.ofNat 7 r.off) r.bytes) :
    step s = .next { s with inputs := rest, sequence := sequenceAfter e, reply := r.value s } := by
  have hreg := Reg.forRead_off hr
  have hl : e.op.legalInWindow = true := by simp [hop, BusOp.legalInWindow, hreg]
  rw [step_of_legal hq (by rw [hop]; rfl) hl, hop]
  exact (regRead_of_forRead (s := { s with inputs := rest, sequence := sequenceAfter e }) hreg hc).trans (by cases r <;> rfl)

/-- Settles O39: the six clauses are six registers of the map. -/
theorem registerReadsReturnValues : Obligations.RegisterReadsReturnValues := by
  intro s e rest hq
  refine ⟨fun hop hc => ?_, fun hop => ?_, fun hop => ?_, fun hop => ?_, fun hop => ?_, fun i hop => ?_⟩
  · exact ⟨_, step_regRead hq .status rfl (fun _ => hc) hop⟩
  · exact ⟨_, step_regRead hq .src rfl nofun hop⟩
  · exact ⟨_, step_regRead hq .len rfl nofun hop⟩
  · exact ⟨_, step_regRead hq .dst rfl nofun hop⟩
  · exact ⟨_, step_regRead hq .result rfl nofun hop⟩
  · exact ⟨_, step_regRead hq (.digest i) rfl nofun hop⟩

/-- A write that names an operand register stores the value there. -/
theorem regWrite_of_forWrite {o : BitVec 7} {n : Nat} {r : Reg} (h : Reg.forWrite o n = some r) (hcmd : r ≠ .cmd)
    (v : Word64) (s : State) : regWrite o n v s = .next (writeOperand r v { s with reply := .ack }) := by
  cases r with
  | cmd => exact absurd rfl hcmd
  | _ => simp [regWrite, h]

/-- What an undisturbed write at an operand register's offset and width does. -/
theorem step_regWrite {s : State} {e : BusEvent} {rest : List Input} {v : Word64} (hq : Quiet s e rest) (r : Reg)
    (hr : r.writable = true) (hcmd : r ≠ .cmd) (hop : e.op = .regWrite (BitVec.ofNat 7 r.off) r.bytes v) :
    step s = .next (writeOperand r v { s with inputs := rest, sequence := sequenceAfter e, reply := .ack }) := by
  have hreg := Reg.forWrite_off hr
  have hl : e.op.legalInWindow = true := by simp [hop, BusOp.legalInWindow, hreg]
  rw [step_of_legal hq (by rw [hop]; rfl) hl, hop]
  exact regWrite_of_forWrite hreg hcmd v _

/-- After an access the open sequence is that context's own or none, so its next access is undisturbed. -/
theorem sequenceAfter_eq (e : BusEvent) : sequenceAfter e = none ∨ sequenceAfter e = some e.ctx := by
  unfold sequenceAfter
  split
  · exact .inl rfl
  · exact .inr rfl

@[simp] theorem writeOperand_inputs (r : Reg) (v : Word64) (s : State) : (writeOperand r v s).inputs = s.inputs := by
  rw [writeOperand_frame]

@[simp] theorem writeOperand_sequence (r : Reg) (v : Word64) (s : State) : (writeOperand r v s).sequence = s.sequence := by
  rw [writeOperand_frame]

theorem writeOperand_src {s : State} (h : s.mode = .run) (v : Word64) : writeOperand .src v s = { s with src := v } := by
  simp [writeOperand, h]

theorem writeOperand_len {s : State} (h : s.mode = .run) (v : Word64) : writeOperand .len v s = { s with len := v } := by
  simp [writeOperand, h]

theorem writeOperand_dst {s : State} (h : s.mode = .run) (v : Word64) : writeOperand .dst v s = { s with dst := v } := by
  simp [writeOperand, h]

/-- An undisturbed write of an operand register, then the same context's read of it. -/
theorem step_regWrite_regRead {s : State} {e e' : BusEvent} {rest : List Input} {v : Word64} (hq : Quiet s e (.bus e' :: rest))
    (ho : e'.others = []) (hctx : e'.ctx = e.ctx) (r : Reg) (hw : r.writable = true) (hr : r.readable = true)
    (hop : e.op = .regWrite (BitVec.ofNat 7 r.off) r.bytes v) (hop' : e'.op = .regRead (BitVec.ofNat 7 r.off) r.bytes) :
    ∃ t u, t = writeOperand r v { s with inputs := .bus e' :: rest, sequence := sequenceAfter e, reply := .ack } ∧
      step s = .next t ∧ step t = .next u ∧ u.reply = r.value t := by
  have hcmd : r ≠ .cmd := by rintro rfl; cases hr
  have hstatus : r ≠ .status := by rintro rfl; cases hw
  have hq' : Quiet (writeOperand r v { s with inputs := .bus e' :: rest, sequence := sequenceAfter e, reply := .ack }) e' rest :=
    ⟨writeOperand_inputs .., ho, by rw [writeOperand_sequence, hctx]; exact sequenceAfter_eq e⟩
  exact ⟨_, _, rfl, step_regWrite hq r hw hcmd hop, step_regRead hq' r hr (fun h => absurd h hstatus) hop', rfl⟩

/-- Settles O40: SRC, LEN and DST are the three registers that are written and read, and commands leave them alone. -/
theorem operandRegistersReadBack : Obligations.OperandRegistersReadBack := by
  refine ⟨fun s e rest v hm hq => ⟨fun hop => ?_, fun hop => ?_, fun hop => ?_⟩,
    fun s e e' rest v hm hq ho hctx => ⟨fun hop hop' => ?_, fun hop hop' => ?_, fun hop hop' => ?_⟩, fun i s t h => exec_operands h⟩
  · exact ⟨sequenceAfter e, .ack, by rw [step_regWrite hq .src rfl nofun hop, writeOperand_src (by exact hm)]⟩
  · exact ⟨sequenceAfter e, .ack, by rw [step_regWrite hq .len rfl nofun hop, writeOperand_len (by exact hm)]⟩
  · exact ⟨sequenceAfter e, .ack, by rw [step_regWrite hq .dst rfl nofun hop, writeOperand_dst (by exact hm)]⟩
  · obtain ⟨t, u, ht, hs, hu, hv⟩ := step_regWrite_regRead hq ho hctx .src rfl rfl hop hop'
    rw [writeOperand_src (by exact hm)] at ht
    subst ht
    exact ⟨_, u, hs, rfl, rfl, rfl, hu, hv⟩
  · obtain ⟨t, u, ht, hs, hu, hv⟩ := step_regWrite_regRead hq ho hctx .len rfl rfl hop hop'
    rw [writeOperand_len (by exact hm)] at ht
    subst ht
    exact ⟨_, u, hs, rfl, rfl, rfl, hu, hv⟩
  · obtain ⟨t, u, ht, hs, hu, hv⟩ := step_regWrite_regRead hq ho hctx .dst rfl rfl hop hop'
    rw [writeOperand_dst (by exact hm)] at ht
    subst ht
    exact ⟨_, u, hs, rfl, rfl, rfl, hu, hv⟩

/-! ### CMD writes (R24) -/

theorem issueCommand_of_decode {w : Word32} {i : Instr} (h : decode w = .ok i) (s : State) : issueCommand w s = exec i s := by
  rw [issueCommand, h]

/-- The CMD write of a word leaves the open sequence as it is (log entry 6). -/
theorem sequenceAfter_cmdWrite (s : State) (w : Word32) : sequenceAfter (cmdWrite s w) = s.sequence := by
  unfold sequenceAfter cmdWrite
  cases s.sequence <;> rfl

/-- It is undisturbed: it comes from the context whose sequence is open. -/
theorem quiet_withAccess_cmdWrite (s : State) (w : Word32) : Quiet (s.withAccess (cmdWrite s w)) (cmdWrite s w) s.inputs := by
  refine ⟨rfl, rfl, ?_⟩
  rw [withAccess_sequence, ← sequenceAfter_cmdWrite s w]
  exact sequenceAfter_eq _

/-- Settles O5: the written word comes back from the 64-bit bus value, and the open sequence stays. -/
theorem stepRunsDecodedCommand : Obligations.StepRunsDecodedCommand := by
  intro s w i hd
  have hw : BitVec.ofNat 32 (w.toNat % 2 ^ 32) = w := by rw [Nat.mod_eq_of_lt w.isLt, BitVec.ofNat_toNat, BitVec.setWidth_eq]
  have hback : (w.setWidth 64).setWidth 32 = w := by rw [BitVec.setWidth_setWidth_of_le w (by decide), BitVec.setWidth_eq]
  have hstep := step_of_legal (quiet_withAccess_cmdWrite s w) rfl rfl
  rw [sequenceAfter_cmdWrite] at hstep
  rw [State.withFetchWord, hw, hstep]
  calc busOp (cmdWrite s w).op s
      = issueCommand ((w.setWidth 64).setWidth 32) { s with reply := .ack } := rfl
    _ = exec i { s with reply := .ack } := by rw [hback, issueCommand_of_decode hd]

/-! ### Mode FAULTED (R31) -/

/-- In mode FAULTED a register write, legal or not, leaves only the bus's answer. -/
theorem regWrite_faulted {s : State} (hm : s.mode = .faulted) (o : BitVec 7) (n : Nat) (v : Word64) :
    ∃ r, regWrite o n v s = .next { s with reply := r } := by
  obtain ⟨t, ht⟩ := regWrite_next o n v s
  rw [ht]
  rcases regWrite_cases ht with ⟨_, rfl⟩ | ⟨_, hc⟩ | ⟨r, _, rfl⟩
  · exact ⟨.illegal, congrArg _ (illegalAccess_faulted hm)⟩
  · refine ⟨.ack, congrArg _ ?_⟩
    rcases issueCommand_cases hc with ⟨_, rfl⟩ | ⟨i, _, hx⟩
    · exact raiseFault_faulted (s := { s with reply := .ack }) hm _
    · rw [exec_faulted (s := { s with reply := .ack }) hm] at hx
      cases hx
      rfl
  · exact ⟨.ack, congrArg _ (writeOperand_faulted (s := { s with reply := .ack }) hm r v)⟩

/-- In mode FAULTED a register read, legal or not, leaves only the bus's answer. -/
theorem regRead_faulted {s t : State} (hm : s.mode = .faulted) {o : BitVec 7} {n : Nat} (h : regRead o n s = .next t) :
    ∃ r, t = { s with reply := r } := by
  rcases regRead_cases h with ⟨_, rfl⟩ | ⟨r, _, rfl⟩
  · exact ⟨_, illegalAccess_faulted hm⟩
  · exact ⟨_, rfl⟩

/-- Settles O35: nothing but the bus's answer and the note of the open sequence is left of a register access. -/
theorem faultedBlockIgnoresAccesses : Obligations.FaultedBlockIgnoresAccesses := by
  refine ⟨fun s i hm => exec_faulted hm i, fun s e rest hm hq => ?_⟩
  have hstep := step_of_quiet hq.1 hq.2.1 hq.2.2
  refine ⟨fun o n v hop => ?_, fun o n t hop ht => ?_, fun r hr hc hop => ⟨_, step_regRead hq r hr (fun _ => hc) hop⟩⟩
  · rw [hop] at hstep
    obtain ⟨r, hr⟩ := regWrite_faulted (s := accessState (.regWrite o n v) e { s with inputs := rest }) hm o n v
    exact ⟨_, r, hstep.trans hr⟩
  · rw [hop] at hstep
    obtain ⟨r, rfl⟩ := regRead_faulted (s := accessState (.regRead o n) e { s with inputs := rest }) hm (hstep.symm.trans ht)
    rfl

/-! ### RESULT and DIGEST0..7 (R29, R30) -/

/-- A routed access leaves RESULT and DIGEST0..7 alone, or is a CMD write of a command's word, which writes at most its own of the
two. -/
theorem busOp_command_or_keeps {op : BusOp} {s t : State} (h : busOp op s = .next t) :
    (t.result = s.result ∧ t.digest = s.digest) ∨
    ∃ o n v i, op = .regWrite o n v ∧ Reg.forWrite o n = some .cmd ∧ v.setWidth 32 = encode i ∧
      (i ≠ .randU64 → t.result = s.result) ∧ (i ≠ .hash → t.digest = s.digest) := by
  rcases busOp_cases h with rfl | ⟨r, rfl⟩ | ⟨r, v, rfl⟩ | ⟨o, n, v, hop, hcmd, hc⟩ | ⟨a, v, _, rfl⟩
  · exact .inl ⟨raiseFault_result .., raiseFault_digest ..⟩
  · exact .inl ⟨rfl, rfl⟩
  · rw [writeOperand_frame]
    exact .inl ⟨rfl, rfl⟩
  · rcases issueCommand_cases hc with ⟨_, rfl⟩ | ⟨i, hd, hx⟩
    · exact .inl ⟨raiseFault_result .., raiseFault_digest ..⟩
    · exact .inr ⟨o, n, v, i, hop, hcmd, eq_encode_of_decode hd, fun hi => (exec_result hx hi).trans rfl,
        fun hi => (exec_digest hx hi).trans rfl⟩
  · exact .inl ⟨rfl, rfl⟩

/-- A step resets the block, leaves RESULT and DIGEST0..7 alone, or runs a command, which writes at most its own of the two. -/
theorem step_command_or_keeps {s t : State} (h : step s = .next t) :
    (∃ rest, s.inputs = .blockReset :: rest) ∨ (t.result = s.result ∧ t.digest = s.digest) ∨
    ∃ e rest v i, s.inputs = .bus e :: rest ∧ e.op = .regWrite 0x00 4 v ∧ v.setWidth 32 = encode i ∧
      (i ≠ .randU64 → t.result = s.result) ∧ (i ≠ .hash → t.digest = s.digest) := by
  rcases step_cases h with ⟨_, rfl⟩ | ⟨rest, hi, _⟩ | ⟨e, rest, hi, he⟩
  · exact .inr (.inl ⟨rfl, rfl⟩)
  · exact .inl ⟨rest, hi⟩
  · obtain ⟨_, _, t', hop, rfl⟩ := busEvent_cases he
    simp only [applyOthers_result, applyOthers_digest]
    rcases busOp_command_or_keeps hop with hkeep | ⟨o, n, v, i, hroute, hcmd, hw, hres, hdig⟩
    · exact .inr (.inl hkeep)
    · exact .inr (.inr ⟨e, rest, v, i, hi, eq_cmdWrite_of_route hroute hcmd, hw, hres, hdig⟩)

/-- Settles O43: RESULT is RAND_U64's and DIGEST0..7 are HASH's. -/
theorem resultRegistersChangeOnlyByTheirCommand : Obligations.ResultRegistersChangeOnlyByTheirCommand := by
  intro s t h
  rcases step_command_or_keeps h with hreset | ⟨hres, hdig⟩ | ⟨e, rest, v, i, hi, hop, hw, hres, hdig⟩
  · exact ⟨fun _ => .inl hreset, fun _ => .inl hreset⟩
  · exact ⟨fun hne => absurd hres hne, fun hne => absurd hdig hne⟩
  · refine ⟨fun hne => .inr ⟨e, rest, v, hi, hop, ?_⟩, fun hne => .inr ⟨e, rest, v, hi, hop, ?_⟩⟩
    · obtain rfl : i = .randU64 := by_contra fun hne' => hne (hres hne')
      exact hw
    · obtain rfl : i = .hash := by_contra fun hne' => hne (hdig hne')
      exact hw

/-! ### What every access keeps -/

/-- A property of the state that none of the changes an access is made of destroys. -/
structure KeptByAccess (P : State → Prop) : Prop where
  reply     : ∀ {s : State} (r : BusReply), P s → P { s with reply := r }
  fault     : ∀ {s : State} (c : Cause), P s → P (raiseFault c s)
  operand   : ∀ {s : State} (r : Reg) (v : Word64), P s → P (writeOperand r v s)
  store     : ∀ {s : State} (a : Word64) (v : Byte), P s → P { s with mem := Memory.write s.mem a.toNat v }
  hash      : ∀ {s : State}, P s → P (hashEffect s)
  randU64   : ∀ {s : State}, P s → P (randU64Effect s)
  randBytes : ∀ {s : State}, bufferCheck s.params (randBuffer s) = none → P s → P (randBytesEffect s)

namespace KeptByAccess

variable {P : State → Prop} (hP : KeptByAccess P)
include hP

theorem of_exec {i : Instr} {s t : State} (h : exec i s = .next t) (hs : P s) : P t := by
  rcases exec_cases h with ⟨_, rfl⟩ | ⟨_, c, rfl⟩ | ⟨_, _, _, rfl⟩ | ⟨_, _, rfl⟩ | ⟨_, _, hc, rfl⟩
  · exact hs
  · exact hP.fault c hs
  · exact hP.hash hs
  · exact hP.randU64 hs
  · exact hP.randBytes hc hs

theorem of_issueCommand {w : Word32} {s t : State} (h : issueCommand w s = .next t) (hs : P s) : P t := by
  rcases issueCommand_cases h with ⟨_, rfl⟩ | ⟨i, _, hx⟩
  · exact hP.fault _ hs
  · exact hP.of_exec hx hs

/-- A routed access keeps what each of its possible changes keeps. -/
theorem of_busOp {op : BusOp} {s t : State} (h : busOp op s = .next t) (hs : P s) : P t := by
  rcases busOp_cases h with rfl | ⟨r, rfl⟩ | ⟨r, v, rfl⟩ | ⟨o, n, v, _, _, hc⟩ | ⟨a, v, _, rfl⟩
  · exact hP.fault _ (hP.reply _ hs)
  · exact hP.reply r hs
  · exact hP.operand r v (hP.reply _ hs)
  · exact hP.of_issueCommand hc (hP.reply _ hs)
  · exact hP.reply .ack (hP.store a v hs)

end KeptByAccess

/-! ### The invariant -/

/-- RAND_BYTES keeps host memory in its one form: its passed check keeps the buffer inside the address space (R58). -/
theorem randBytesEffect_wf {s : State} (hc : bufferCheck s.params (randBuffer s) = none) (hm : Memory.wf s.mem) :
    Memory.wf (randBytesEffect s).mem :=
  fillWords_wf _ _ _ s hm (bufferCheck_bound hc) rfl

/-- Every access keeps host memory in its one form. -/
theorem keptByAccess_wf : KeptByAccess fun s => Memory.wf s.mem where
  reply _ hm := hm
  fault c hm := by rwa [raiseFault_mem]
  operand r v hm := by rwa [writeOperand_frame]
  store a v hm := Memory.write_wf hm a.isLt v
  hash hm := by rwa [hashEffect_frame]
  randU64 hm := hm
  randBytes hc hm := randBytesEffect_wf hc hm

theorem State.statusWf_run {s : State} (h : s.mode = .run) : s.statusWf ↔ s.status = 0 := by
  simp [State.statusWf, h]

theorem State.statusWf_faulted {s : State} (h : s.mode = .faulted) : s.statusWf ↔ ∃ c : Cause, s.status = Status.ofCause c := by
  simp [State.statusWf, h]

/-- Fault entry makes STATUS agree with the mode it enters (R141). -/
theorem raiseFault_statusWf {s : State} (c : Cause) (h : s.statusWf) : (raiseFault c s).statusWf := by
  cases hm : s.mode with
  | run => rw [raiseFault_run hm]; exact ⟨c, rfl⟩
  | faulted => rwa [raiseFault_faulted hm]

theorem raiseFault_inv {s : State} (c : Cause) (h : s.Inv) : (raiseFault c s).Inv :=
  ⟨raiseFault_statusWf c h.status, by rw [raiseFault_engine, h.idle], by rw [raiseFault_mem]; exact h.mem⟩

/-- Every access keeps the invariant: only fault entry touches STATUS and the mode, and HASH leaves the sequencer IDLE (R102). -/
theorem keptByAccess_inv : KeptByAccess State.Inv where
  reply _ h := ⟨h.status, h.idle, h.mem⟩
  fault c h := raiseFault_inv c h
  operand r v h := by rw [writeOperand_frame]; exact ⟨h.status, h.idle, h.mem⟩
  store a v h := ⟨h.status, h.idle, keptByAccess_wf.store a v h.mem⟩
  hash h := by rw [hashEffect_frame]; exact ⟨h.status, rfl, h.mem⟩
  randU64 h := ⟨h.status, h.idle, h.mem⟩
  randBytes hc h := by
    have hwf := randBytesEffect_wf hc h.mem
    rw [randBytesEffect_eq]
    exact ⟨h.status, h.idle, hwf⟩

theorem blockReset_inv {s : State} (hm : Memory.wf s.mem) : (blockReset s).Inv := ⟨rfl, rfl, hm⟩

/-- What other agents do keeps the invariant: their stores keep memory's form, and their reach into the window is fault entry. -/
theorem applyOthers_inv (xs : List AgentAccess) {s : State} (h : s.Inv) : (applyOthers xs s).Inv := by
  have hland : State.Inv { s with mem := xs.foldl (AgentAccess.land s.params.base) s.mem } :=
    ⟨h.status, h.idle, land_wf s.params.base xs h.mem⟩
  unfold applyOthers
  split
  · exact raiseFault_inv _ hland
  · exact hland

theorem busEvent_inv {e : BusEvent} {s t : State} (h : busEvent e s = .next t) (hs : s.Inv) : t.Inv := by
  obtain ⟨_, _, t', hop, rfl⟩ := busEvent_cases h
  exact applyOthers_inv e.others (keptByAccess_inv.of_busOp hop ⟨hs.status, hs.idle, hs.mem⟩)

/-- Settles O47: nothing pending, a block reset and a host access each keep the invariant. -/
theorem stepKeepsInvariant : Obligations.StepKeepsInvariant := by
  intro s t hs h
  rcases step_cases h with ⟨_, rfl⟩ | ⟨rest, _, rfl⟩ | ⟨e, rest, _, he⟩
  · exact hs
  · exact blockReset_inv hs.mem
  · exact busEvent_inv he ⟨hs.status, hs.idle, hs.mem⟩

/-- The fields of STATUS after each fault (R25, R142). -/
theorem status_fields_ofCause (c : Cause) :
    Status.faultBit (Status.ofCause c) = true ∧ Status.reserved (Status.ofCause c) = 0 ∧
      1 ≤ (Status.cause (Status.ofCause c)).toNat ∧ (Status.cause (Status.ofCause c)).toNat ≤ 4 := by
  cases c <;> decide

/-- Settles O49: STATUS is 0 in mode RUN and a fault's word in mode FAULTED. -/
theorem statusFieldsUnderInvariant : Obligations.StatusFieldsUnderInvariant := by
  intro s hs
  cases hm : s.mode with
  | run =>
    rw [(State.statusWf_run hm).1 hs.status]
    decide
  | faulted =>
    obtain ⟨c, hc⟩ := (State.statusWf_faulted hm).1 hs.status
    obtain ⟨hfault, hres, hcause⟩ := status_fields_ofCause c
    rw [hc]
    exact ⟨⟨fun _ => rfl, fun _ => hfault⟩, hres, fun h => absurd (hfault.symm.trans h) (by decide), fun _ => hcause⟩

/-! ### What other agents do (log entry 8) -/

/-- The byte an agent's access stores at a host address, if it does: outside the window, at that address, and a store. -/
def AgentAccess.storeAt (base : Word64) (x : AgentAccess) (a : Nat) : Option Byte :=
  if inWindow base x.addr = false ∧ x.addr.toNat = a then x.store else none

theorem AgentAccess.read_land (base : Word64) {m : List Host.Cell} (hm : Memory.wf m) (x : AgentAccess) (a : Nat) :
    Memory.read (x.land base m) a = (x.storeAt base a).getD (Memory.read m a) := by
  unfold AgentAccess.land AgentAccess.storeAt
  cases hw : inWindow base x.addr with
  | true => simp
  | false =>
    cases hst : x.store with
    | none => simp
    | some v =>
      by_cases ha : x.addr.toNat = a
      · simp [ha, Memory.read_write hm.1]
      · simp [ha, Memory.read_write hm.1, Ne.symm ha]

theorem lastStore_cons (base : Word64) (x : AgentAccess) (xs : List AgentAccess) (a : Nat) :
    lastStore base (x :: xs) a = (lastStore base xs a).or (x.storeAt base a) := by
  unfold lastStore AgentAccess.storeAt
  by_cases hx : inWindow base x.addr = false ∧ x.addr.toNat = a
  · cases hst : x.store with
    | none => simp [hx, hst]
    | some v => simp [hx, hst, List.getLast?_cons, Option.or_some]
  · have hf : (!inWindow base x.addr && x.addr.toNat == a) = false := by simpa using hx
    simp [hx, hf]

/-- After other agents' accesses each address holds the byte last stored to it, or what it held. -/
theorem read_foldl_land (base : Word64) (xs : List AgentAccess) {m : List Host.Cell} (hm : Memory.wf m) (a : Nat) :
    Memory.read (xs.foldl (AgentAccess.land base) m) a = (lastStore base xs a).getD (Memory.read m a) := by
  induction xs generalizing m with
  | nil => rfl
  | cons x xs ih =>
    have hx : Memory.wf (x.land base m) := land_wf base [x] hm
    rw [List.foldl_cons, ih hx, AgentAccess.read_land base hm, lastStore_cons]
    cases lastStore base xs a <;> rfl

/-- A bus event that does not race is its access, after which what the other agents did takes effect. -/
theorem busEvent_of_no_fault {e : BusEvent} {s : State} (h : ∀ r, busEvent e s ≠ .fault r) :
    busEvent e s = land e.others (busOp (route s.params.base e.op) (accessState (route s.params.base e.op) e s)) := by
  unfold busEvent routedEvent at h ⊢
  split
  · rename_i hctx
    exact absurd (if_pos hctx) (h _)
  · rename_i hctx
    split
    · rename_i htouch
      exact absurd ((if_neg hctx).trans (if_pos htouch)) (h _)
    · rfl

theorem step_bus {s : State} {e : BusEvent} {rest : List Input} (hi : s.inputs = .bus e :: rest) :
    step s = busEvent e { s with inputs := rest } := by
  rw [step, serve, hi]

/-- A step that does not race, with and without the other agents: their accesses take effect on the state reached without them. -/
theorem step_others {s t : State} {e : BusEvent} {rest : List Input} (hi : s.inputs = .bus e :: rest)
    (hf : ∀ r, step s ≠ .fault r) (ht : step { s with inputs := .bus { e with others := [] } :: rest } = .next t) :
    step s = .next (applyOthers e.others t) ∧ t.params = s.params ∧ (Memory.wf s.mem → Memory.wf t.mem) := by
  rw [step_bus hi] at hf ⊢
  rw [step_bus rfl] at ht
  obtain ⟨_, _, t', hop, rfl⟩ := busEvent_cases ht
  refine ⟨?_, (busOp_params hop).trans rfl, fun hm => keptByAccess_wf.of_busOp hop hm⟩
  rw [busEvent_of_no_fault hf]
  exact congrArg (land e.others) hop

/-- Settles O57: with the other agents a step reaches `applyOthers` of the state it reaches without them. -/
theorem otherAgentsTakeEffectAfterwards : Obligations.OtherAgentsTakeEffectAfterwards := by
  intro s t e rest hm hi hf ht
  obtain ⟨hstep, hparams, hwf⟩ := step_others hi hf ht
  rw [← hparams]
  refine ⟨_, hstep, ?_, fun a => ?_, fun hrun hx => applyOthers_fault hx hrun, fun h => applyOthers_keep h.symm⟩
  · rw [applyOthers_frame]
  · rw [applyOthers_mem, read_foldl_land _ _ (hwf hm)]

end Sys2Proof.Machine
end

section
/-! PROOFS. What 20_memory.md fixes: when a command's buffer is good and what the command then does to host memory, the padded
message, the host's own loads and stores, and the serialisation duties (R50-R60, R63, R68, R91-R94). -/

namespace Sys2Proof.Machine

/-! ### Commands with a buffer (R58, R151) -/

/-- R85: HASH executes normally exactly in mode RUN with its checks passed. -/
theorem hashReady_iff (s : State) : HashReady s ↔ s.mode = .run ∧ hashCheck s = none := by
  unfold HashReady hashCheck
  by_cases hlen : Config.maxHashLen < s.len.toNat
  · rw [if_pos hlen]
    exact ⟨fun ⟨_, hle, _⟩ => absurd hlen (Nat.not_lt.2 hle), fun ⟨_, h⟩ => nomatch h⟩
  · rw [if_neg hlen, bufferCheck_eq_none]
    exact and_congr_right fun _ => and_iff_right (Nat.not_lt.1 hlen)

/-- R127: RAND_BYTES executes normally exactly in mode RUN with its check passed. -/
theorem fillReady_iff (s : State) : FillReady s ↔ s.mode = .run ∧ bufferCheck s.params (randBuffer s) = none := by
  rw [bufferCheck_eq_none]
  rfl

/-- A command that is not ready writes STATUS and the mode at most; a ready one has its whole effect (R151). -/
theorem runCommand_ready_cases {check : Option Cause} {effect s t : State} (h : runCommand check effect s = .next t) :
    (¬(s.mode = .run ∧ check = none) ∧ t = { s with status := t.status, mode := t.mode }) ∨
    ((s.mode = .run ∧ check = none) ∧ t = effect) := by
  rcases runCommand_cases h with ⟨hm, rfl⟩ | ⟨_, c, hc, rfl⟩ | ⟨hm, hc, rfl⟩
  · exact .inl ⟨fun hr => (nomatch hm.symm.trans hr.1), rfl⟩
  · exact .inl ⟨fun hr => (nomatch hc.symm.trans hr.2), raiseFault_frame c s⟩
  · exact .inr ⟨⟨hm, hc⟩, rfl⟩

theorem exec_hash_cases {s t : State} (h : exec .hash s = .next t) :
    (¬HashReady s ∧ t = { s with status := t.status, mode := t.mode }) ∨ (HashReady s ∧ t = hashEffect s) := by
  rw [hashReady_iff]
  exact runCommand_ready_cases h

theorem exec_randBytes_cases {s t : State} (h : exec .randBytes s = .next t) :
    (¬FillReady s ∧ t = { s with status := t.status, mode := t.mode }) ∨ (FillReady s ∧ t = randBytesEffect s) := by
  rw [fillReady_iff]
  exact runCommand_ready_cases h

theorem exec_randBytes_of_ready {s : State} (h : FillReady s) : exec .randBytes s = .next (randBytesEffect s) := by
  obtain ⟨hm, hc⟩ := (fillReady_iff s).1 h
  rw [exec, execRandBytes, hc, runCommand_effect hm]

/-- Settles O10: a ready HASH is its sequencer's run, any other writes STATUS and the mode alone. -/
theorem hashFrame : Obligations.HashFrame := by
  intro s t h
  rcases exec_hash_cases h with ⟨hn, ht⟩ | ⟨hr, rfl⟩
  · rw [ht]
    exact ⟨rfl, fun _ => rfl, fun hr => absurd hr hn, fun _ => ⟨rfl, rfl⟩⟩
  · rw [hashEffect_frame]
    exact ⟨rfl, fun _ => rfl, fun _ => ⟨rfl, rfl⟩, fun hn => absurd hr hn⟩

/-! ### RAND_BYTES' fill (R54, R60, R127) -/

/-- What host memory reads after the fill loop: byte `j` of the buffer is byte `j mod 8` of the value of draw `j / 8`. -/
theorem read_fillWords (q addr left : Nat) (s : State) (hm : s.mem.Pairwise (fun x y => x.1 < y.1)) (hq : q = drawCount left)
    (a : Nat) :
    Memory.read (fillWords q addr left s).mem a =
      if addr ≤ a ∧ a < addr + left then byteOf (drawValue (drawMany ((a - addr) / 8) s)) ((a - addr) % 8)
      else Memory.read s.mem a := by
  unfold drawCount at hq
  induction q generalizing addr left s with
  | zero =>
    have hout : ¬(addr ≤ a ∧ a < addr + left) := by omega
    rw [if_neg hout, fillWords]
  | succ q ih =>
    rw [fillWords, ih _ _ _ (Memory.writeLE_rising hm ..) (by omega), drawMany_with_mem, drawValue_with_mem]
    by_cases hlater : addr + 8 ≤ a ∧ a < addr + 8 + (left - 8)
    · have hin : addr ≤ a ∧ a < addr + left := by omega
      have hdiv : (a - addr) / 8 = (a - (addr + 8)) / 8 + 1 := by omega
      have hmod : (a - addr) % 8 = (a - (addr + 8)) % 8 := by omega
      rw [if_pos hlater, if_pos hin, hdiv, hmod, drawMany]
    · rw [if_neg hlater]
      simp only [drawState_mem]
      rw [Memory.read_writeLE hm]
      by_cases hfirst : addr ≤ a ∧ a < addr + min 8 left
      · have hin : addr ≤ a ∧ a < addr + left := by omega
        have hdiv : (a - addr) / 8 = 0 := by omega
        have hmod : (a - addr) % 8 = a - addr := by omega
        rw [if_pos hfirst, if_pos hin, hdiv, hmod, drawMany]
      · have hout : ¬(addr ≤ a ∧ a < addr + left) := by omega
        rw [if_neg hfirst, if_neg hout]

theorem read_randBytesEffect {s : State} (hm : s.mem.Pairwise (fun x y => x.1 < y.1)) (a : Nat) :
    Memory.read (randBytesEffect s).mem a =
      if s.dst.toNat ≤ a ∧ a < s.dst.toNat + s.len.toNat then
        byteOf (drawValue (drawMany ((a - s.dst.toNat) / 8) s)) ((a - s.dst.toNat) % 8)
      else Memory.read s.mem a :=
  read_fillWords _ _ _ s hm rfl a

/-- R60: outside its buffer RAND_BYTES writes nothing. -/
theorem read_randBytesEffect_outside {s : State} (hm : s.mem.Pairwise (fun x y => x.1 < y.1)) {a : Nat}
    (ha : a < s.dst.toNat ∨ s.dst.toNat + s.len.toNat ≤ a) :
    Memory.read (randBytesEffect s).mem a = Memory.read s.mem a := by
  rw [read_randBytesEffect hm, if_neg (by omega)]

/-- Settles O28: the memory is the fill loop's. -/
theorem randBytesFillsBuffer : Obligations.RandBytesFillsBuffer := by
  intro s hr hm
  refine ⟨(randBytesEffect s).mem, ?_, fun q k hk hin => ?_, fun a ha => read_randBytesEffect_outside hm ha⟩
  · rw [exec_randBytes_of_ready hr]
    exact congrArg _ (randBytesEffect_frame s)
  · have hbuf : s.dst.toNat ≤ s.dst.toNat + (8 * q + k) ∧ s.dst.toNat + (8 * q + k) < s.dst.toNat + s.len.toNat := by omega
    have hdiv : (8 * q + k) / 8 = q := by omega
    have hmod : (8 * q + k) % 8 = k := by omega
    rw [read_randBytesEffect hm, if_pos hbuf, Nat.add_sub_cancel_left, hdiv, hmod]

/-- Settles O31: a ready RAND_BYTES is its fill loop, any other writes STATUS and the mode alone. -/
theorem randBytesFrame : Obligations.RandBytesFrame := by
  intro s t h hm
  rcases exec_randBytes_cases h with ⟨hn, ht⟩ | ⟨hr, rfl⟩
  · rw [ht]
    exact ⟨rfl, fun _ _ => rfl, fun hr => absurd hr hn, fun _ => rfl⟩
  · refine ⟨?_, fun a ha => read_randBytesEffect_outside hm ha, fun _ => ?_, fun hn => absurd hr hn⟩
    · rw [randBytesEffect_eq]
    · rw [randBytesEffect_eq]
      exact ⟨rfl, rfl⟩

/-- Settles O29: no byte to fill is no draw (D12). -/
theorem randBytesOfNothing : Obligations.RandBytesOfNothing := by
  intro s hm h0
  have hnone : randBytesEffect s = s := by rw [randBytesEffect, h0]; rfl
  rw [exec_randBytes_of_ready ⟨hm, .inl h0⟩, hnone]

/-! ### The padded message (R91-R94) -/

/-- The bit length in eight bytes, most significant first, as the last bytes of the padded message (R53 a, R94). -/
theorem byteOf_ofNat {n : Nat} (hn : n < 2 ^ 64) (k : Nat) : byteOf (BitVec.ofNat 64 n) k = BitVec.ofNat 8 (n / 256 ^ k) := by
  apply BitVec.eq_of_toNat_eq
  have hpow : (2 : Nat) ^ (8 * k) = 256 ^ k := Nat.pow_mul 2 8 k
  rw [byteOf, BitVec.extractLsb'_toNat, BitVec.toNat_ofNat, BitVec.toNat_ofNat, Nat.mod_eq_of_lt hn, Nat.shiftRight_eq_div_pow,
    hpow]

namespace Sha256

/-- Consecutive stretches of a message laid end to end. -/
theorem map_range_add (m : Nat → Byte) (a b : Nat) :
    (List.range (a + b)).map m = (List.range a).map m ++ (List.range b).map fun j => m (a + j) := by
  rw [List.range_add, List.map_append, List.map_map]
  rfl

theorem toList_messageBlock (m : Nat → Byte) (i : Nat) :
    (messageBlock m i).toList = (List.range 64).map fun j => m (64 * i + j) := by
  refine List.ext_getElem (by simp) fun j h1 h2 => ?_
  simp [messageBlock]

/-- R91: the complete blocks are the message's first bytes. -/
theorem flatMap_messageBlock (m : Nat → Byte) (n : Nat) :
    ((List.range n).map (messageBlock m)).flatMap (fun b => b.toList) = (List.range (64 * n)).map m := by
  induction n with
  | zero => rfl
  | succ n ih =>
    rw [List.range_succ, List.map_append, List.flatMap_append, ih, Nat.mul_succ, map_range_add, ← toList_messageBlock]
    simp

/-- R92: the final padded block is the remainder of the message, 0x80, and zeros. -/
theorem toList_padBlock (m : Nat → Byte) (len : Nat) :
    (padBlock m len).toList =
      ((List.range (len % 64)).map fun j => m (64 * (len / 64) + j)) ++ [0x80] ++ List.replicate (63 - len % 64) 0 := by
  have hlt : len % 64 < 64 := Nat.mod_lt _ (by decide)
  refine List.ext_getElem (by simp; omega) fun j h1 h2 => ?_
  rcases Nat.lt_trichotomy j (len % 64) with h | h | h
  · simp [padBlock, h]
  · simp [padBlock, h]
  · have hge : ¬j < len % 64 := by omega
    have hne : j ≠ len % 64 := by omega
    have hpos : j - len % 64 ≠ 0 := by omega
    simp [padBlock, List.getElem_append, List.getElem_cons, hge, hne, hpos]

/-- R94: the last eight bytes of a block give way to the bit length. -/
theorem toList_putLength (b : Block) {len : Nat} (hlen : len ≤ 2 ^ 61 - 1) :
    (putLength b len).toList =
      b.toList.take 56 ++ (List.range 8).map fun k => BitVec.ofNat 8 (8 * len / 256 ^ (7 - k)) := by
  refine List.ext_getElem (by simp) fun j h1 h2 => ?_
  by_cases h : 56 ≤ j
  · have hbits : 8 * len < 2 ^ 64 := by omega
    simp [putLength, h, byteOf_ofNat hbits]
  · have hlt : j < 56 := by omega
    simp [putLength, h, hlt, Vector.get]

theorem toList_zeroBlock : zeroBlock.toList = List.replicate 64 0 := rfl

/-- The complete blocks and the remainder in the final padded block are the whole message. -/
theorem map_range_eq_blocks_append_remainder (m : Nat → Byte) (len : Nat) :
    (List.range len).map m =
      (List.range (64 * (len / 64))).map m ++ (List.range (len % 64)).map fun j => m (64 * (len / 64) + j) := by
  rw [← map_range_add, Nat.div_add_mod]

/-- The final padded block up to its length field: the remainder, 0x80, and the zeros that are left (R92, R93). -/
theorem take_toList_padBlock (m : Nat → Byte) {len : Nat} (hr : len % 64 ≤ 55) :
    (padBlock m len).toList.take 56 =
      ((List.range (len % 64)).map fun j => m (64 * (len / 64) + j)) ++ [0x80] ++ List.replicate (55 - len % 64) 0 := by
  have hfit : len % 64 + 1 ≤ 56 := by omega
  have hzeros : 55 ≤ 63 - len % 64 + len % 64 := by omega
  rw [toList_padBlock, List.take_append, List.take_of_length_le (by simpa using hfit), List.take_replicate]
  simp [hzeros]

end Sha256

/-- Settles O13: the length field fits the final padded block behind 0x80, or stands in a block of zeros after it. -/
theorem paddedMessageLayout : Obligations.PaddedMessageLayout := by
  intro m len hlen
  rw [Sha256.paddedBlocks, List.flatMap_append, Sha256.flatMap_messageBlock, Sha256.map_range_eq_blocks_append_remainder m len]
  by_cases hr : len % 64 ≤ 55
  · rw [if_neg (by omega), if_pos hr, List.flatMap_singleton, Sha256.toList_putLength _ hlen, Sha256.take_toList_padBlock m hr]
    simp only [List.append_assoc]
  · have hzeros : 119 - len % 64 = (63 - len % 64) + 56 := by omega
    rw [if_pos (by omega), if_neg hr, List.flatMap_cons, List.flatMap_singleton, Sha256.toList_putLength _ hlen,
      Sha256.toList_padBlock, Sha256.toList_zeroBlock, List.take_replicate, hzeros, ← List.replicate_append_replicate]
    simp only [List.append_assoc]
    rfl

/-! ### Host memory accesses (R63) -/

/-- What a step does with an access that is no legal register access while no other agent acts, whatever sequence is open. -/
theorem step_of_not_legalInWindow {s : State} {e : BusEvent} {rest : List Input} (hi : s.inputs = .bus e :: rest)
    (ho : e.others = []) (hl : (route s.params.base e.op).legalInWindow = false) :
    step s = busOp (route s.params.base e.op) { s with inputs := rest } := by
  rw [step_bus hi, busEvent, routedEvent, otherContext_of_illegal hl, touchesBuffer_of_illegal hl, ho, land_nil, accessState, hl]
  rfl

/-- A host store outside the window writes its byte. -/
theorem step_memWrite {s : State} {e : BusEvent} {rest : List Input} {a : Word64} {v : Byte} (hi : s.inputs = .bus e :: rest)
    (ho : e.others = []) (ha : inWindow s.params.base a = false) (hop : e.op = .memWrite a v) :
    step s = .next { s with inputs := rest, mem := Memory.write s.mem a.toNat v, reply := .ack } := by
  have hroute : route s.params.base e.op = .memWrite a v := by rw [hop, route, ha]; rfl
  rw [step_of_not_legalInWindow hi ho (by rw [hroute]; rfl), hroute, busOp]

/-- A host load outside the window answers the byte there. -/
theorem step_memRead {s : State} {e : BusEvent} {rest : List Input} {a : Word64} (hi : s.inputs = .bus e :: rest)
    (ho : e.others = []) (ha : inWindow s.params.base a = false) (hop : e.op = .memRead a) :
    step s = .next { s with inputs := rest, reply := .byte (Memory.read s.mem a.toNat) } := by
  have hroute : route s.params.base e.op = .memRead a := by rw [hop, route, ha]; rfl
  rw [step_of_not_legalInWindow hi ho (by rw [hroute]; rfl), hroute, busOp]

/-- Settles O46: a read after a write. -/
theorem hostStoreThenLoad : Obligations.HostStoreThenLoad := by
  intro s e e' rest a v hm ha hi ho ho' hop hop'
  refine ⟨_, _, step_memWrite hi ho ha hop, step_memRead rfl ho' ha hop', congrArg BusReply.byte ?_, fun b hb => ?_⟩
  · exact (Memory.read_write hm a.toNat v _).trans (if_pos rfl)
  · exact (Memory.read_write hm a.toNat v b).trans (if_neg hb)

/-! ### What changes host memory (R59, R60) -/

/-- Host memory is RAND_BYTES' alone among the commands: HASH only reads it (R59, R101). -/
theorem exec_mem {i : Instr} {s t : State} (h : exec i s = .next t) (hi : i ≠ .randBytes) : t.mem = s.mem := by
  rcases exec_cases h with ⟨_, rfl⟩ | ⟨_, c, rfl⟩ | ⟨_, _, _, rfl⟩ | ⟨_, _, rfl⟩ | ⟨rfl, _⟩
  · rfl
  · exact raiseFault_mem c s
  · rw [hashEffect_frame]
  · rfl
  · exact absurd rfl hi

/-- A routed access that changes host memory is a host store or a CMD write of RAND_BYTES' word. -/
theorem busOp_mem {op : BusOp} {s t : State} (h : busOp op s = .next t) :
    t.mem = s.mem ∨ (∃ a v, op = .memWrite a v) ∨
    ∃ o n v, op = .regWrite o n v ∧ Reg.forWrite o n = some .cmd ∧ v.setWidth 32 = encode .randBytes := by
  rcases busOp_cases h with rfl | ⟨r, rfl⟩ | ⟨r, v, rfl⟩ | ⟨o, n, v, hop, hcmd, hc⟩ | ⟨a, v, hop, _⟩
  · exact .inl (raiseFault_mem ..)
  · exact .inl rfl
  · rw [writeOperand_frame]
    exact .inl rfl
  · rcases issueCommand_cases hc with ⟨_, rfl⟩ | ⟨i, hd, hx⟩
    · exact .inl (raiseFault_mem ..)
    · by_cases hi : i = .randBytes
      · subst hi
        exact .inr (.inr ⟨o, n, v, hop, hcmd, eq_encode_of_decode hd⟩)
      · exact .inl ((exec_mem hx hi).trans rfl)
  · exact .inr (.inl ⟨a, v, hop⟩)

/-- A host store that reaches host memory is the host's own access. -/
theorem eq_memWrite_of_route {base : Word64} {op : BusOp} {a : Word64} {v : Byte} (h : route base op = .memWrite a v) :
    op = .memWrite a v := by
  cases op with
  | regRead o n => cases h
  | regWrite o n w => cases h
  | memRead b => simp only [route] at h; split at h <;> cases h
  | memWrite b w =>
    simp only [route] at h
    split at h
    · cases h
    · exact h

/-- Other agents that only load leave host memory as it is. -/
theorem foldl_land_of_loads (base : Word64) {xs : List AgentAccess} (h : ∀ x ∈ xs, x.store = none) (m : List Host.Cell) :
    xs.foldl (AgentAccess.land base) m = m := by
  induction xs with
  | nil => rfl
  | cons x xs ih =>
    have hx : x.land base m = m := by
      rw [AgentAccess.land, h x List.mem_cons_self]
      exact ite_self m
    rw [List.foldl_cons, hx, ih fun y hy => h y (List.mem_cons_of_mem x hy)]

/-- Settles O58: with no store by another agent, only the access itself can have changed host memory. -/
theorem memoryChangesOnlyByStoresAndFill : Obligations.MemoryChangesOnlyByStoresAndFill := by
  intro s t h hne
  rcases step_cases h with ⟨_, rfl⟩ | ⟨rest, _, rfl⟩ | ⟨e, rest, hi, he⟩
  · exact absurd rfl hne
  · exact absurd rfl hne
  · refine ⟨e, rest, hi, ?_⟩
    by_cases hst : ∃ x ∈ e.others, x.store ≠ none
    · exact .inr (.inr hst)
    · obtain ⟨_, _, t', hop, rfl⟩ := busEvent_cases he
      have hloads : ∀ x ∈ e.others, x.store = none := by simpa using hst
      rw [applyOthers_mem, foldl_land_of_loads _ hloads] at hne
      rcases busOp_mem hop with hkeep | ⟨a, v, hroute⟩ | ⟨o, n, v, hroute, hcmd, hw⟩
      · exact absurd hkeep hne
      · exact .inl ⟨a, v, eq_memWrite_of_route hroute⟩
      · exact .inr (.inl ⟨v, eq_cmdWrite_of_route hroute hcmd, hw⟩)

/-! ### The two races (R68, R149, R165) -/

/-- A read that R22's table allows names a register. -/
theorem forRead_of_legalRead {o : BitVec 7} {n : Nat} (h : LegalRead o n) : ∃ r, Reg.forRead o n = some r := by
  rcases h with ⟨ho, hn⟩ | ⟨ho | ho | ho | ho, hn⟩ | ⟨⟨hlo, hhi, hdvd⟩, hn⟩
  · exact ⟨.status, Reg.forRead_eq_some.2 ⟨ho, hn, rfl⟩⟩
  · exact ⟨.src, Reg.forRead_eq_some.2 ⟨ho, hn, rfl⟩⟩
  · exact ⟨.len, Reg.forRead_eq_some.2 ⟨ho, hn, rfl⟩⟩
  · exact ⟨.dst, Reg.forRead_eq_some.2 ⟨ho, hn, rfl⟩⟩
  · exact ⟨.result, Reg.forRead_eq_some.2 ⟨ho, hn, rfl⟩⟩
  · exact ⟨.digest ⟨(o.toNat - 0x28) / 4, by omega⟩, Reg.forRead_eq_some.2 ⟨by simp only [Reg.off]; omega, hn, rfl⟩⟩

/-- A write that R22's table allows names a register. -/
theorem forWrite_of_legalWrite {o : BitVec 7} {n : Nat} (h : LegalWrite o n) : ∃ r, Reg.forWrite o n = some r := by
  rcases h with ⟨ho, hn⟩ | ⟨ho | ho | ho, hn⟩
  · exact ⟨.cmd, Reg.forWrite_eq_some.2 ⟨ho, hn, rfl⟩⟩
  · exact ⟨.src, Reg.forWrite_eq_some.2 ⟨ho, hn, rfl⟩⟩
  · exact ⟨.len, Reg.forWrite_eq_some.2 ⟨ho, hn, rfl⟩⟩
  · exact ⟨.dst, Reg.forWrite_eq_some.2 ⟨ho, hn, rfl⟩⟩

/-- A legal register access is routed to the block as it is, and stays legal (R23, R51). -/
theorem route_of_legalAccess (base : Word64) {op : BusOp} (h : LegalAccess op) :
    route base op = op ∧ op.legalInWindow = true := by
  rcases h with ⟨o, n, rfl, hl⟩ | ⟨o, n, v, rfl, hl⟩
  · obtain ⟨r, hr⟩ := forRead_of_legalRead hl
    exact ⟨rfl, Option.isSome_iff_exists.2 ⟨r, hr⟩⟩
  · obtain ⟨r, hr⟩ := forWrite_of_legalWrite hl
    exact ⟨rfl, Option.isSome_iff_exists.2 ⟨r, hr⟩⟩

/-- R149 (a): a legal access by another context while a sequence is open. -/
theorem step_of_otherContext {s : State} {e : BusEvent} {rest : List Input} {c : Nat} (hi : s.inputs = .bus e :: rest)
    (hseq : s.sequence = some c) (hc : c ≠ e.ctx) (hl : LegalAccess e.op) :
    step s = .fault (.race .interleavedSequences) := by
  obtain ⟨hroute, hlegal⟩ := route_of_legalAccess s.params.base hl
  have hother : otherContext e.op e { s with inputs := rest } = true := by simp [otherContext, hlegal, hseq, hc]
  rw [step_bus hi, busEvent, hroute, routedEvent, if_pos hother]

theorem issuedBy_of_writesCmd {op : BusOp} {w : Word32} {i : Instr} (h : WritesCmd op w) (hd : decode w = .ok i) :
    issuedBy op = some i := by
  obtain ⟨v, rfl, rfl⟩ := h
  have hcmd : Reg.forWrite 0x00 4 = some .cmd := Reg.forWrite_off (r := .cmd) rfl
  rw [issuedBy, if_pos hcmd, hd]
  rfl

/-- R149 (b): another agent touches the buffer of the command that the access issues. -/
theorem step_of_touches {s : State} {e : BusEvent} {rest : List Input} {x : AgentAccess} {w : Word32} {i : Instr} {b : Buffer}
    (hi : s.inputs = .bus e :: rest) (hseq : s.sequence = none ∨ s.sequence = some e.ctx) (hx : x ∈ e.others)
    (hw : WritesCmd e.op w) (hd : decode w = .ok i) (hb : usedBuffer i s = some b) (ht : x.touches b = true) :
    step s = .fault (.race .bufferTouched) := by
  have hroute : route s.params.base e.op = e.op := by
    obtain ⟨v, hop, _⟩ := hw
    rw [hop, route]
  have hother : ¬otherContext e.op e { s with inputs := rest } = true := by
    rw [otherContext_eq_false (s := { s with inputs := rest }) hseq]
    exact Bool.false_ne_true
  have hissued : (issuedBy e.op).bind (fun i => usedBuffer i { s with inputs := rest }) = some b := by
    rw [issuedBy_of_writesCmd hw hd]
    exact hb
  have htouch : touchesBuffer e.op e.others { s with inputs := rest } = true :=
    List.any_eq_true.2 ⟨x, hx, by rw [hissued]; exact ht⟩
  rw [step_bus hi, busEvent, hroute, routedEvent, if_neg hother, if_pos htouch]

/-- A ready command uses its buffer. -/
theorem usedBuffer_hash {s : State} (h : HashReady s) : usedBuffer .hash s = some (hashBuffer s) := by
  obtain ⟨hm, hc⟩ := (hashReady_iff s).1 h
  simp [usedBuffer, hm, hc]

theorem usedBuffer_randBytes {s : State} (h : FillReady s) : usedBuffer .randBytes s = some (randBuffer s) := by
  obtain ⟨hm, hc⟩ := (fillReady_iff s).1 h
  simp [usedBuffer, hm, hc]

/-- R68: only another agent's store disturbs a HASH input. -/
theorem touches_hashBuffer {s : State} {x : AgentAccess} (hst : x.store ≠ none) (hlo : s.src.toNat ≤ x.addr.toNat)
    (hhi : x.addr.toNat < s.src.toNat + s.len.toNat) : x.touches (hashBuffer s) = true := by
  simp [AgentAccess.touches, hashBuffer, hlo, hhi, Option.isSome_iff_ne_none, hst]

/-- R68: any access of another agent disturbs a RAND_BYTES output. -/
theorem touches_randBuffer {s : State} {x : AgentAccess} (hlo : s.dst.toNat ≤ x.addr.toNat)
    (hhi : x.addr.toNat < s.dst.toNat + s.len.toNat) : x.touches (randBuffer s) = true := by
  simp [AgentAccess.touches, randBuffer, hlo, hhi]

/-- Settles O37: the interleaved access, and the touched buffer of each of the two commands that have one. -/
theorem racesAreFaults : Obligations.RacesAreFaults := by
  refine ⟨fun s e rest c hi hseq hc hl => step_of_otherContext hi hseq hc hl,
    fun s e rest x hi hseq hx => ⟨fun hr hw hst hlo hhi => ?_, fun hr hw hlo hhi => ?_⟩⟩
  · exact step_of_touches (i := .hash) hi hseq hx hw (by decide) (usedBuffer_hash hr) (touches_hashBuffer hst hlo hhi)
  · exact step_of_touches (i := .randBytes) hi hseq hx hw (by decide) (usedBuffer_randBytes hr) (touches_randBuffer hlo hhi)

/-! ### Completion (R55, R165) -/

/-- A read in the window stops at a reserved cause code alone (I11). -/
theorem regRead_next {s : State} (hc : (Status.cause s.status).toNat ≤ 4) (o : BitVec 7) (n : Nat) :
    ∃ t, regRead o n s = .next t := by
  cases hr : Reg.forRead o n with
  | none => exact ⟨illegalAccess s, by rw [regRead, hr]⟩
  | some r => exact ⟨_, regRead_of_forRead hr fun _ => hc⟩

theorem busOp_next {s : State} (hc : (Status.cause s.status).toNat ≤ 4) (op : BusOp) : ∃ t, busOp op s = .next t := by
  cases op with
  | regRead o n => exact regRead_next hc o n
  | regWrite o n v => exact regWrite_next o n v s
  | memRead a => exact ⟨_, rfl⟩
  | memWrite a v => exact ⟨_, rfl⟩

/-- No access changes what is pending. -/
theorem keptByAccess_inputs (rest : List Input) : KeptByAccess fun s => s.inputs = rest where
  reply _ h := h
  fault c h := by rwa [raiseFault_inputs]
  operand r v h := by rwa [writeOperand_inputs]
  store _ _ h := h
  hash h := by rwa [hashEffect_frame]
  randU64 h := h
  randBytes _ h := by rwa [randBytesEffect_eq]

/-- The invariant shuts the reserved cause codes out (R142). -/
theorem State.Inv.cause_le {s : State} (h : s.Inv) : (Status.cause s.status).toNat ≤ 4 := by
  obtain ⟨_, _, hzero, hcode⟩ := statusFieldsUnderInvariant s h
  cases hf : Status.faultBit s.status with
  | false => rw [hzero hf]; decide
  | true => exact (hcode hf).2

/-- Settles O38: an undisturbed access is the access alone, and only a reserved cause code could stop it. -/
theorem singleHostAccessCompletes : Obligations.SingleHostAccessCompletes := by
  intro s e rest hs ⟨hi, ho, hseq⟩
  rw [step_of_quiet hi ho hseq]
  obtain ⟨t, ht⟩ := busOp_next (s := accessState (route s.params.base e.op) e { s with inputs := rest }) hs.cause_le
    (route s.params.base e.op)
  exact ⟨t, ht, (keptByAccess_inputs rest).of_busOp ht rfl⟩

end Sys2Proof.Machine
end

section
/-! PROOFS. What 30_encoding.md fixes: the decoder on every word, the opcode table's words, the refusal by name, RAND_U64's frame, and the
host's pseudo-instructions (R70-R77). -/

namespace Sys2Proof.Machine

/-! ### The fields of a command word (R70) -/

theorem toNat_rsvField (w : Word32) : (rsvField w).toNat = w.toNat / 256 := by
  rw [rsvField, BitVec.extractLsb'_toNat, Nat.shiftRight_eq_div_pow]
  omega

theorem toNat_opcField (w : Word32) : (opcField w).toNat = w.toNat % 256 := by
  rw [opcField, BitVec.extractLsb'_toNat, Nat.shiftRight_zero]

theorem rsvField_eq_zero_iff (w : Word32) : rsvField w = 0 ↔ w.toNat / 256 = 0 := by
  rw [← BitVec.toNat_inj, toNat_rsvField]
  rfl

theorem opcField_eq_opcode_iff (w : Word32) (i : Instr) : opcField w = i.opcode ↔ w.toNat % 256 = i.opcode.toNat := by
  rw [← BitVec.toNat_inj, toNat_opcField]

/-! ### The opcode map (R72, R73) -/

theorem opcode_bounds (i : Instr) : 1 ≤ i.opcode.toNat ∧ i.opcode.toNat ≤ 3 := by
  cases i <;> decide

theorem instrOfOpcode_opcode (i : Instr) : instrOfOpcode i.opcode = some i := by
  cases i <;> rfl

theorem instrOfOpcode_eq_none {opc : BitVec 8} (h : ∀ i : Instr, opc ≠ i.opcode) : instrOfOpcode opc = none :=
  Option.eq_none_iff_forall_ne_some.2 fun i hi => h i (eq_opcode_of_instrOfOpcode hi)

/-! ### The decoder's three answers (R75) -/

/-- RSV is checked first: OPC does not matter. -/
theorem decode_reservedBits {w : Word32} (h : rsvField w ≠ 0) : decode w = .error .reservedBits :=
  if_pos h

theorem decode_reservedOpcode {w : Word32} (hrsv : rsvField w = 0) (hopc : ∀ i : Instr, opcField w ≠ i.opcode) :
    decode w = .error .reservedOpcode := by
  rw [decode, if_neg (not_not_intro hrsv), instrOfOpcode_eq_none hopc]

theorem decode_opcode {w : Word32} {i : Instr} (hrsv : rsvField w = 0) (hopc : opcField w = i.opcode) : decode w = .ok i := by
  rw [decode, if_neg (not_not_intro hrsv), hopc, instrOfOpcode_opcode]

/-- Settles O3: the clauses are the decoder's three answers, with both fields read as numbers. -/
theorem decodeIsTotal : Obligations.DecodeIsTotal := by
  intro w
  have ok (i : Instr) (hrsv : w.toNat / 256 = 0) (hopc : w.toNat % 256 = i.opcode.toNat) : decode w = .ok i :=
    decode_opcode ((rsvField_eq_zero_iff w).2 hrsv) ((opcField_eq_opcode_iff w i).2 hopc)
  refine ⟨fun hrsv => ?_, ok .hash, ok .randU64, ok .randBytes, fun hrsv hopc => ?_⟩
  · exact decode_reservedBits (mt (rsvField_eq_zero_iff w).1 hrsv)
  · refine decode_reservedOpcode ((rsvField_eq_zero_iff w).2 hrsv) fun i hi => ?_
    have hmod := (opcField_eq_opcode_iff w i).1 hi
    have hbound := opcode_bounds i
    omega

/-! ### The commands' own words (R70, R72) -/

/-- The encoding laws hold of every command. -/
theorem encoding_statement (i : Instr) : Laws.Encoding.Statement i := by
  cases i with
  | hash => exact Laws.Encoding.hash
  | randU64 => exact Laws.Encoding.randU64
  | randBytes => exact Laws.Encoding.randBytes

theorem decode_encode (i : Instr) : decode (encode i) = .ok i := by
  obtain ⟨hrsv, hopc, _, _⟩ := encoding_statement i
  exact decode_opcode hrsv hopc

/-- Settles O1: the fields of a command's own word are RSV = 0 and its opcode. -/
theorem decodeOfEncode : Obligations.DecodeOfEncode := by
  intro i _
  obtain ⟨_, _, hwf, _⟩ := encoding_statement i
  exact ⟨decode_encode i, hwf⟩

theorem decode_eq_ok_iff {w : Word32} {i : Instr} : decode w = .ok i ↔ w = encode i :=
  ⟨eq_encode_of_decode, fun h => h ▸ decode_encode i⟩

theorem encode_hash : encode .hash = 0x00000001 := rfl
theorem encode_randU64 : encode .randU64 = 0x00000002 := rfl
theorem encode_randBytes : encode .randBytes = 0x00000003 := rfl

/-- Settles O2: each command decodes from its own word alone, and these are the three words. -/
theorem legalCommandWords : Obligations.LegalCommandWords := by
  intro w
  rw [← encode_hash, ← encode_randU64, ← encode_randBytes]
  exact ⟨decode_eq_ok_iff, decode_eq_ok_iff, decode_eq_ok_iff⟩

/-! ### The host's table words -/

/-- A 32-bit number is decoded as the word it is. -/
theorem decodeTableWord_toNat (w : Word32) : decodeTableWord 32 w.toNat = (decode w).toOption := by
  rw [decodeTableWord, Nat.mod_eq_of_lt w.isLt, if_pos w.isLt, BitVec.ofNat_toNat, BitVec.setWidth_eq]
  cases decode w <;> rfl

theorem decodeTableWord_encode (i : Instr) : decodeTableWord 32 (encode i).toNat = some i := by
  rw [decodeTableWord_toNat, decode_encode]
  rfl

theorem decodeTableWord_of_error {w : Word32} {e : IllegalWord} (h : decode w = .error e) : decodeTableWord 32 w.toNat = none := by
  rw [decodeTableWord_toNat, h]
  rfl

/-- Settles O4: the three commands' own words, one word with a reserved opcode, and two with RSV not zero. -/
theorem tableWordsDecode : Obligations.TableWordsDecode := by
  refine ⟨decodeTableWord_encode .hash, decodeTableWord_encode .randU64, decodeTableWord_encode .randBytes, ?_, ?_, ?_⟩
  · exact decodeTableWord_of_error (w := 0x00000000) (decode_reservedOpcode (by decide) fun i => by cases i <;> decide)
  · exact decodeTableWord_of_error (w := 0x00000101) (decode_reservedBits (by decide))
  · exact decodeTableWord_of_error (w := 0x800000FF) (decode_reservedBits (by decide))

/-! ### RAND_U64 (R71, R126) -/

/-- RAND_U64 has no check: it is ignored in mode FAULTED and has its effect in mode RUN. -/
theorem exec_randU64_cases {s t : State} (h : exec .randU64 s = .next t) :
    (s.mode = .faulted ∧ t = s) ∨ (s.mode = .run ∧ t = randU64Effect s) := by
  cases hm : s.mode with
  | faulted =>
    rw [exec_faulted hm] at h
    cases h
    exact .inl ⟨rfl, rfl⟩
  | run =>
    rw [exec, execRandU64, runCommand_effect hm] at h
    cases h
    exact .inr ⟨rfl, rfl⟩

/-- Settles O27: the effect is one draw whose value goes to RESULT, and host memory is RAND_BYTES' alone. -/
theorem randU64Frame : Obligations.RandU64Frame := by
  intro s t h
  refine ⟨?_, fun a => by rw [exec_mem h nofun]⟩
  rcases exec_randU64_cases h with ⟨_, rfl⟩ | ⟨_, rfl⟩ <;> rfl

/-! ### Refused commands (R74) -/

/-- Settles O52: the request is what the step serves next. -/
theorem excludedCommandsRefused : Obligations.ExcludedCommandsRefused := by
  intro s c rest hi
  rw [step, serve, hi]

/-! ### Pseudo-instructions (R76, R77) -/

/-- A legal access to the window is a read or a write that names a register. -/
theorem BusOp.legalInWindow_iff {op : BusOp} :
    op.legalInWindow = true ↔
      (∃ o n, op = .regRead o n ∧ (Reg.forRead o n).isSome) ∨ ∃ o n v, op = .regWrite o n v ∧ (Reg.forWrite o n).isSome := by
  cases op <;> simp [BusOp.legalInWindow]

/-- Does R22 allow the statement's direction on its register? The assembler's own check is of the width alone. -/
def Stmt.allowed : Stmt → Bool
  | .wr32 r _ => r.writable
  | .wr64 r _ => r.writable
  | .rd32 r => r.readable
  | .rd64 r => r.readable

/-- A statement of the right width and an allowed direction spells a legal access. -/
theorem Stmt.legalInWindow_access {x : Stmt} (hwf : x.wf = true) (ha : x.allowed = true) : x.access.legalInWindow = true := by
  have read {r : Reg} {n : Nat} (hn : (r.bytes == n) = true) (hr : r.readable = true) :
      (BusOp.regRead (BitVec.ofNat 7 r.off) n).legalInWindow = true := by
    rw [BusOp.legalInWindow, ← beq_iff_eq.1 hn, Reg.forRead_off hr]
    rfl
  have write {r : Reg} {n : Nat} (v : Word64) (hn : (r.bytes == n) = true) (hr : r.writable = true) :
      (BusOp.regWrite (BitVec.ofNat 7 r.off) n v).legalInWindow = true := by
    rw [BusOp.legalInWindow, ← beq_iff_eq.1 hn, Reg.forWrite_off hr]
    rfl
  cases x with
  | wr32 r v => exact write _ hwf ha
  | wr64 r v => exact write v hwf ha
  | rd32 r => exact read hwf ha
  | rd64 r => exact read hwf ha

/-- Every expansion keeps to its registers' widths and directions, whatever its operands are. -/
theorem Pseudo.wf_and_allowed_of_mem_expand {p : Pseudo} {x : Stmt} (hx : x ∈ p.expand) : x.wf = true ∧ x.allowed = true := by
  have hall : p.expand.all (fun x => x.wf && x.allowed) = true := by cases p <;> rfl
  exact Bool.and_eq_true_iff.1 (List.all_eq_true.1 hall x hx)

/-- Settles O54: a statement of an expansion passes the width check, and its access is legal. -/
theorem pseudoInstructionsAssemble : Obligations.PseudoInstructionsAssemble := by
  intro p x hx
  obtain ⟨hwf, ha⟩ := Pseudo.wf_and_allowed_of_mem_expand hx
  exact ⟨x.access, if_pos hwf, BusOp.legalInWindow_iff.1 (Stmt.legalInWindow_access hwf ha)⟩

end Sys2Proof.Machine
end

section
/-! PROOFS. What 40_hash.md fixes: the constants, the mixing functions, the schedule and the compression, the sequencer's run, and HASH
as a function of its message (R85-R102), with its independence of the draws (R132). -/

namespace Sys2Proof.Machine

/-! ### The constants (R86, R87) -/

theorem primesBelow_20 : primesBelow 20 = [2, 3, 5, 7, 11, 13, 17, 19] := by decide +kernel

theorem primesBelow_312 :
    primesBelow 312 =
      [2, 3, 5, 7, 11, 13, 17, 19, 23, 29, 31, 37, 41, 43, 47, 53, 59, 61, 67, 71, 73, 79, 83, 89, 97, 101, 103, 107, 109, 113, 127,
        131, 137, 139, 149, 151, 157, 163, 167, 173, 179, 181, 191, 193, 197, 199, 211, 223, 227, 229, 233, 239, 241, 251, 257, 263,
        269, 271, 277, 281, 283, 293, 307, 311] := by
  decide +kernel

/-- Settles O18: the eight primes are below 5², so the whole part of each root is below 5. -/
theorem initialHashFromSquareRoots : Obligations.InitialHashFromSquareRoots := by
  have hroot : ∀ i : Fin 8, ∃ r < 5,
      (r * 2 ^ 32 + (Sha256.iv.get i).toNat) ^ 2 ≤ (primesBelow 20).getD i.val 0 * 2 ^ 64 ∧
      (primesBelow 20).getD i.val 0 * 2 ^ 64 < (r * 2 ^ 32 + (Sha256.iv.get i).toNat + 1) ^ 2 := by
    rw [primesBelow_20]
    decide +kernel
  intro i
  obtain ⟨r, _, hr⟩ := hroot i
  exact ⟨r, hr⟩

/-- Settles O19: the 64 primes are below 7³, so the whole part of each root is below 7. -/
theorem roundConstantsFromCubeRoots : Obligations.RoundConstantsFromCubeRoots := by
  have hroot : ∀ t : Fin 64, ∃ r < 7,
      (r * 2 ^ 32 + (Sha256.k.get t).toNat) ^ 3 ≤ (primesBelow 312).getD t.val 0 * 2 ^ 96 ∧
      (primesBelow 312).getD t.val 0 * 2 ^ 96 < (r * 2 ^ 32 + (Sha256.k.get t).toNat + 1) ^ 3 := by
    rw [primesBelow_312]
    decide +kernel
  intro t
  obtain ⟨r, _, hr⟩ := hroot t
  exact ⟨r, hr⟩

/-! ### Choose and majority (R88) -/

/-- Settles O16: R88's formulas on single bits. -/
theorem chooseAndMajorityBits : Obligations.ChooseAndMajorityBits := by
  intro x y z i hi
  simp only [Sha256.ch, Sha256.maj, BitVec.getLsbD_xor, BitVec.getLsbD_and, BitVec.getLsbD_not, hi, decide_true, Bool.true_and]
  generalize x.getLsbD i = a, y.getLsbD i = b, z.getLsbD i = c
  revert a b c
  decide

namespace Sha256

/-! ### The message schedule (R95) -/

/-- A fold over the indices below `n`, as an induction on how many of them it has done. -/
theorem foldl_finRange_induction {α : Type} {n : Nat} {P : Nat → α → Prop} (f : α → Fin n → α) {a : α} (h0 : P 0 a)
    (hstep : ∀ (i : Fin n) (x : α), P i.val x → P (i.val + 1) (f x i)) : P n ((List.finRange n).foldl f a) := by
  rw [← Fin.foldl_eq_foldl_finRange]
  induction n with
  | zero => simpa using h0
  | succ n ih =>
    rw [Fin.foldl_succ_last]
    exact hstep (Fin.last n) _ (ih (fun x i => f x i.castSucc) fun i x hx => hstep i.castSucc x hx)

theorem get_loadWords (b : Block) (w : Words64) (t : Fin 64) :
    (loadWords b w).get t = if h : t.val < 16 then blockWord b ⟨t.val, h⟩ else w.get t := by
  simp [loadWords]

theorem get_extendAt (w : Words64) (t u : Fin 64) :
    (extendAt w t).get u = if 16 ≤ t.val ∧ u = t then nextWord w t else w.get u := by
  unfold extendAt
  by_cases h16 : 16 ≤ t.val
  · rw [if_pos h16, Vector.get_eq_getElem, Vector.getElem_set]
    simp [h16, Fin.ext_iff, eq_comm, Vector.get]
  · rw [if_neg h16, if_neg fun h => h16 h.1]

/-- The recurrence with its indices as numbers: from 16 on, none of them wraps. -/
theorem nextWord_eq (w : Words64) {t : Nat} (h : t < 64) (h16 : 16 ≤ t) :
    nextWord w ⟨t, h⟩ =
      smallSigma1 (w.get ⟨t - 2, by omega⟩) + w.get ⟨t - 7, by omega⟩ + smallSigma0 (w.get ⟨t - 15, by omega⟩) +
        w.get ⟨t - 16, by omega⟩ := by
  have hsub (k : Fin 64) (hk : k.val ≤ t) : (⟨t, h⟩ : Fin 64) - k = ⟨t - k.val, by omega⟩ :=
    Fin.ext (Fin.sub_val_of_le hk)
  rw [nextWord, hsub 2 (Nat.le_trans (by decide) h16), hsub 7 (Nat.le_trans (by decide) h16),
    hsub 15 (Nat.le_trans (by decide) h16), hsub 16 h16]
  rfl

/-- The next word depends on earlier words alone. -/
theorem nextWord_congr {v w : Words64} {t : Fin 64} (h16 : 16 ≤ t.val) (h : ∀ u < t, v.get u = w.get u) :
    nextWord v t = nextWord w t := by
  have hlt (k : Nat) (hk : 0 < k) (hk' : t.val - k < 64) : (⟨t.val - k, hk'⟩ : Fin 64) < t := by
    rw [Fin.lt_def]; simp only; omega
  rw [nextWord_eq v t.isLt h16, nextWord_eq w t.isLt h16, h _ (hlt 2 (by decide) _), h _ (hlt 7 (by decide) _),
    h _ (hlt 15 (by decide) _), h _ (hlt 16 (by decide) _)]

/-- The block's words stand in `W[0..15]`, and the words from 16 up to `n` satisfy R95's recurrence. -/
structure Scheduled (b : Block) (n : Nat) (w : Words64) : Prop where
  loaded   : ∀ (t : Fin 64) (h : t.val < 16), w.get t = blockWord b ⟨t.val, h⟩
  extended : ∀ t : Fin 64, 16 ≤ t.val → t.val < n → w.get t = nextWord w t

theorem scheduled_loadWords (b : Block) (w : Words64) : Scheduled b 0 (loadWords b w) where
  loaded t h := by rw [get_loadWords, dif_pos h]
  extended _ _ h := absurd h (Nat.not_lt_zero _)

/-- R95's step at `t` adds the word at `t` and disturbs no word that is there. -/
theorem Scheduled.succ {b : Block} {w : Words64} {t : Fin 64} (hw : Scheduled b t.val w) :
    Scheduled b (t.val + 1) (extendAt w t) where
  loaded u h := by
    have hne : ¬(16 ≤ t.val ∧ u = t) := by rintro ⟨h16, rfl⟩; omega
    rw [get_extendAt, if_neg hne, hw.loaded u h]
  extended u h16 hu := by
    have hkeep : nextWord (extendAt w t) u = nextWord w u := nextWord_congr h16 fun v hv => by
      have hne : ¬(16 ≤ t.val ∧ v = t) := by rintro ⟨_, rfl⟩; omega
      rw [get_extendAt, if_neg hne]
    rw [hkeep, get_extendAt]
    by_cases hut : u = t
    · rw [if_pos ⟨hut ▸ h16, hut⟩, hut]
    · rw [if_neg fun h => hut h.2]
      exact hw.extended u h16 (by omega)

/-- The recurrence determines the words: two schedules of a block agree as far as both have come. -/
theorem Scheduled.get_eq {b : Block} {m n : Nat} {v w : Words64} (hv : Scheduled b m v) (hw : Scheduled b n w) (t : Fin 64)
    (hm : t.val < m) (hn : t.val < n) : v.get t = w.get t := by
  induction t using WellFoundedLT.induction with
  | ind t ih =>
    by_cases h : t.val < 16
    · rw [hv.loaded t h, hw.loaded t h]
    · rw [hv.extended t (by omega) hm, hw.extended t (by omega) hn]
      exact nextWord_congr (by omega) fun u hu => ih u hu (by omega) (by omega)

theorem scheduled_schedule (b : Block) : Scheduled b 64 (schedule b) :=
  foldl_finRange_induction extendAt (scheduled_loadWords b _) fun _ _ hw => hw.succ

theorem Scheduled.eq_schedule {b : Block} {w : Words64} (hw : Scheduled b 64 w) : w = schedule b :=
  Vector.ext fun t ht => hw.get_eq (scheduled_schedule b) ⟨t, ht⟩ ht ht

end Sha256

/-- Settles O15: the whole schedule is scheduled up to 64. -/
theorem scheduleRecurrence : Obligations.ScheduleRecurrence := by
  refine fun b => ⟨fun t => (Sha256.scheduled_schedule b).loaded _ t.isLt, fun t h h16 => ?_⟩
  rw [(Sha256.scheduled_schedule b).extended ⟨t, h⟩ h16 h, Sha256.nextWord_eq _ h h16]

/-! ### The engine's compression (R96-R98, R102) -/

namespace HashEngine

theorem rounds_succ (n : Nat) (e : HashEngine) : rounds (n + 1) e = roundStep (rounds n e) := by
  induction n generalizing e with
  | zero => rfl
  | succ n ih => exact ih (roundStep e)

/-- Rounds write the working set, the schedule and the round index. -/
theorem rounds_frame (n : Nat) (e : HashEngine) :
    rounds n e = { e with w := (rounds n e).w, work := (rounds n e).work, round := (rounds n e).round } := by
  induction n with
  | zero => rfl
  | succ n ih =>
    rw [rounds_succ, roundStep, ih]

@[simp] theorem rounds_phase (n : Nat) (e : HashEngine) : (rounds n e).phase = e.phase := by rw [rounds_frame]
@[simp] theorem rounds_blockIndex (n : Nat) (e : HashEngine) : (rounds n e).blockIndex = e.blockIndex := by rw [rounds_frame]
@[simp] theorem rounds_h (n : Nat) (e : HashEngine) : (rounds n e).h = e.h := by rw [rounds_frame]

@[simp] theorem compress_phase (e : HashEngine) : e.compress.phase = e.phase := by
  simp [compress, fold, loadBlock]

@[simp] theorem compress_blockIndex (e : HashEngine) : e.compress.blockIndex = e.blockIndex := by
  simp [compress, fold, loadBlock]

theorem val_round_rounds (n : Nat) (e : HashEngine) : (rounds n e.loadBlock).round.val = n % 64 := by
  induction n with
  | zero => rfl
  | succ n ih =>
    rw [rounds_succ, roundStep, Fin.val_add, ih, Fin.val_one, Nat.mod_add_mod]

/-- The round index before round `t` is `t`. -/
theorem round_rounds (t : Fin 64) (e : HashEngine) : (rounds t.val e.loadBlock).round = t :=
  Fin.ext (by rw [val_round_rounds, Nat.mod_eq_of_lt t.isLt])

theorem rounds_succ_w (t : Fin 64) (e : HashEngine) :
    (rounds (t.val + 1) e.loadBlock).w = Sha256.extendAt (rounds t.val e.loadBlock).w t := by
  rw [rounds_succ, roundStep, round_rounds]

theorem rounds_succ_work (t : Fin 64) (e : HashEngine) :
    (rounds (t.val + 1) e.loadBlock).work =
      Sha256.round (rounds t.val e.loadBlock).work (Sha256.k.get t) ((rounds (t.val + 1) e.loadBlock).w.get t) := by
  rw [rounds_succ_w, rounds_succ, roundStep, round_rounds]

/-- After `n` rounds the schedule has come to word `n`, whatever the engine held before. -/
theorem scheduled_rounds (e : HashEngine) {n : Nat} (hn : n ≤ 64) : Sha256.Scheduled e.blk n (rounds n e.loadBlock).w := by
  induction n with
  | zero => exact Sha256.scheduled_loadWords e.blk e.w
  | succ n ih =>
    rw [rounds_succ_w ⟨n, hn⟩]
    exact Sha256.Scheduled.succ (t := ⟨n, hn⟩) (ih (Nat.le_of_lt hn))

/-- The word a round uses is already the whole schedule's word (R102). -/
theorem work_rounds (e : HashEngine) :
    (rounds 64 e.loadBlock).work =
      (List.finRange 64).foldl (fun x t => Sha256.round x (Sha256.k.get t) ((Sha256.schedule e.blk).get t))
        (WorkingSet.ofWords e.h) := by
  refine Sha256.foldl_finRange_induction (P := fun n x => (rounds n e.loadBlock).work = x) _ rfl fun t x hx => ?_
  have hword := (scheduled_rounds e t.isLt).get_eq (Sha256.scheduled_schedule e.blk) t (by omega) t.isLt
  rw [rounds_succ_work, hx, hword]

theorem compress_w (e : HashEngine) : e.compress.w = Sha256.schedule e.blk :=
  (scheduled_rounds e le_rfl).eq_schedule

theorem compress_h (e : HashEngine) : e.compress.h = Sha256.compress e.h e.blk := by
  have hh : (rounds 64 e.loadBlock).h = e.h := rounds_h 64 e.loadBlock
  rw [compress, fold, work_rounds, hh, Sha256.compress]

end HashEngine

/-- Settles O12: both computations of the schedule satisfy the recurrence, which determines it. -/
theorem scheduleDuringRoundsAgrees : Obligations.ScheduleDuringRoundsAgrees :=
  fun e => ⟨e.compress_h, e.compress_w⟩

namespace Sha256

/-! ### The blocks of a message (R91-R94, R100) -/

/-- The one or two blocks behind the complete ones: the remainder, 0x80, zeros and the length (R92-R94). -/
def finalBlocks (m : Nat → Byte) (len : Nat) : List Block :=
  if 56 ≤ len % 64 then [padBlock m len, putLength zeroBlock len] else [putLength (padBlock m len) len]

theorem paddedBlocks_eq (m : Nat → Byte) (len : Nat) :
    paddedBlocks m len = (List.range (len / 64)).map (messageBlock m) ++ finalBlocks m len := rfl

theorem length_paddedBlocks (m : Nat → Byte) (len : Nat) :
    (paddedBlocks m len).length = len / 64 + (finalBlocks m len).length := by
  simp [paddedBlocks_eq]

theorem finalBlocks_one {m : Nat → Byte} {len : Nat} (h : len % 64 ≤ 55) :
    finalBlocks m len = [putLength (padBlock m len) len] := if_neg (by omega)

theorem finalBlocks_two {m : Nat → Byte} {len : Nat} (h : 56 ≤ len % 64) :
    finalBlocks m len = [padBlock m len, putLength zeroBlock len] := if_pos h

theorem messageBlock_congr {m m' : Nat → Byte} {len i : Nat} (h : ∀ j < len, m j = m' j) (hi : i < len / 64) :
    messageBlock m i = messageBlock m' i := by
  refine Vector.ext fun j hj => ?_
  simpa [messageBlock] using h (64 * i + j) (by omega)

theorem padBlock_congr {m m' : Nat → Byte} {len : Nat} (h : ∀ j < len, m j = m' j) : padBlock m len = padBlock m' len := by
  refine Vector.ext fun j hj => ?_
  by_cases hr : j < len % 64
  · simpa [padBlock, hr] using h (64 * (len / 64) + j) (by omega)
  · simp [padBlock, hr]

/-- R101: the digest is a function of the first `len` bytes and `len`. -/
theorem digest_congr {m m' : Nat → Byte} {len : Nat} (h : ∀ j < len, m j = m' j) : digest m len = digest m' len := by
  have hblocks : (List.range (len / 64)).map (messageBlock m) = (List.range (len / 64)).map (messageBlock m') :=
    List.map_congr_left fun i hi => messageBlock_congr h (List.mem_range.1 hi)
  have hfinal : finalBlocks m len = finalBlocks m' len := by rw [finalBlocks, finalBlocks, padBlock_congr h]
  rw [digest, digest, paddedBlocks_eq, paddedBlocks_eq, hblocks, hfinal]

end Sha256

/-- Settles O14: the final blocks are one or two. -/
theorem blockCount : Obligations.BlockCount := by
  refine fun m len => ⟨fun h => ?_, fun h => ?_⟩
  · rw [Sha256.length_paddedBlocks, Sha256.finalBlocks_one h]
    rfl
  · rw [Sha256.length_paddedBlocks, Sha256.finalBlocks_two h]
    rfl

/-! ### The sequencer's run (R102) -/

@[simp] theorem seqRun_len (n : Nat) (s : State) : (seqRun n s).len = s.len := by rw [seqRun_frame]
@[simp] theorem seqRun_messageByte (n : Nat) (s : State) : messageByte (seqRun n s) = messageByte s := by rw [seqRun_frame]; rfl

theorem seqRun_succ (n : Nat) (s : State) : seqRun (n + 1) s = seqStep (seqRun n s) := seqRun_add n 1 s

/-- FULL with a complete block left: it is compressed into H and the index moves on. -/
theorem seqStep_full_of_lt {s : State} (hp : s.engine.phase = .full) (hi : s.engine.blockIndex.toNat < s.len.toNat / 64) :
    (seqStep s).engine.phase = .full ∧ (seqStep s).engine.blockIndex = s.engine.blockIndex + 1 ∧
      (seqStep s).engine.h = Sha256.compress s.engine.h (Sha256.messageBlock (messageByte s) s.engine.blockIndex.toNat) := by
  rw [seqStep, hp]
  simp only [if_pos hi]
  exact ⟨by rw [HashEngine.compress_phase, hp], by rw [HashEngine.compress_blockIndex], by rw [HashEngine.compress_h]⟩

/-- As long as complete blocks are left, `n` arrows from the start have compressed the first `n` of them. -/
theorem seqRun_full (s : State) {n : Nat} (hn : n ≤ s.len.toNat / 64) :
    (seqRun n (seqStart s)).engine.phase = .full ∧ (seqRun n (seqStart s)).engine.blockIndex.toNat = n ∧
      (seqRun n (seqStart s)).engine.h =
        ((List.range n).map (Sha256.messageBlock (messageByte s))).foldl Sha256.compress Sha256.iv := by
  induction n with
  | zero => exact ⟨rfl, rfl, rfl⟩
  | succ n ih =>
    obtain ⟨hp, hi, hh⟩ := ih (by omega)
    have hlen : s.len.toNat < 2 ^ 64 := s.len.isLt
    have hone : (1 : Word64).toNat = 1 := rfl
    have hleft : (seqRun n (seqStart s)).engine.blockIndex.toNat < (seqRun n (seqStart s)).len.toNat / 64 := by
      rw [hi, seqRun_len]
      exact hn
    obtain ⟨hp', hi', hh'⟩ := seqStep_full_of_lt hp hleft
    rw [seqRun_succ]
    refine ⟨hp', ?_, ?_⟩
    · rw [hi', BitVec.toNat_add, hi, hone]
      exact Nat.mod_eq_of_lt (by omega)
    · rw [hh', hi, hh, seqRun_messageByte, List.range_succ, List.map_append, List.foldl_append]
      rfl

/-- With no complete block left, the last four arrows, FULL → PAD → LENBLK → OUT → IDLE, compress the final blocks and write H to
DIGEST0..7. -/
theorem seqRun_final {s : State} (hp : s.engine.phase = .full) (hi : ¬s.engine.blockIndex.toNat < s.len.toNat / 64) :
    (seqRun 4 s).engine.phase = .idle ∧
      (seqRun 4 s).engine.h = (Sha256.finalBlocks (messageByte s) s.len.toNat).foldl Sha256.compress s.engine.h ∧
      (seqRun 4 s).digest = (seqRun 4 s).engine.h := by
  by_cases hr : 56 ≤ s.len.toNat % 64
  · simp [seqRun, seqStep, hp, hi, hr, Sha256.finalBlocks, HashEngine.compress_h]
  · simp [seqRun, seqStep, hp, hi, hr, Sha256.finalBlocks, HashEngine.compress_h]

/-- Settles O11: the complete blocks first, then the final ones. -/
theorem sequencerComputesDigest : Obligations.SequencerComputesDigest := by
  intro s
  have hrun : seqRun (seqLength s.len.toNat) (seqStart s) = seqRun 4 (seqRun (s.len.toNat / 64) (seqStart s)) := seqRun_add _ 4 _
  simp only [hrun]
  obtain ⟨hp, hi, hh⟩ := seqRun_full s le_rfl
  obtain ⟨hp', hh', hd⟩ := seqRun_final hp (by rw [hi, seqRun_len]; exact Nat.lt_irrefl _)
  refine ⟨hp', ?_, hd⟩
  rw [hh', hh, seqRun_messageByte, seqRun_len, Sha256.digest, Sha256.paddedBlocks_eq, List.foldl_append]
  rfl

/-! ### HASH (R85, R101, R145) -/

theorem length_messageBytes (s : State) : (messageBytes s).length = s.len.toNat := by simp [messageBytes]

theorem getD_messageBytes (s : State) {j : Nat} (hj : j < s.len.toNat) : (messageBytes s).getD j 0 = messageByte s j := by
  simp [messageBytes, messageByte, hj]

/-- DIGEST0..7 after a HASH that ran are the digest of the message bytes (R99). -/
theorem hashEffect_digest (s : State) : (hashEffect s).digest = Sha256.digestOf (messageBytes s) := by
  obtain ⟨_, hh, hd⟩ := sequencerComputesDigest s
  rw [hashEffect, hideEngine_digest, hd, hh, Sha256.digestOf, length_messageBytes]
  exact Sha256.digest_congr fun j hj => (getD_messageBytes s hj).symm

theorem exec_hash_of_ready {s : State} (h : HashReady s) : exec .hash s = .next (hashEffect s) := by
  obtain ⟨hm, hc⟩ := (hashReady_iff s).1 h
  rw [exec, execHash, hc, runCommand_effect hm]

theorem exec_hash_of_fault {s : State} {c : Cause} (hm : s.mode = .run) (hc : hashCheck s = some c) :
    exec .hash s = .next { s with status := Status.ofCause c, mode := .faulted } := by
  rw [exec, execHash, hc, runCommand_fault hm]

/-- R145: the length is checked first. -/
theorem hashCheck_of_long {s : State} (h : Config.maxHashLen < s.len.toNat) : hashCheck s = some .hashLenRange := if_pos h

/-- R58: a nonempty buffer that wraps or is not admitted is bad. -/
theorem hashCheck_of_bad_buffer {s : State} (hlen : s.len.toNat ≤ Config.maxHashLen) (h0 : s.len ≠ 0)
    (hbad : 2 ^ 64 < s.src.toNat + s.len.toNat ∨ admits s.params (hashBuffer s) = false) : hashCheck s = some .badBuffer := by
  have hcheck : bufferCheck s.params (hashBuffer s) ≠ none := by
    rw [Ne, bufferCheck_eq_none]
    rintro (hz | ⟨hfit, hadm⟩)
    · exact h0 hz
    · rcases hbad with hwrap | hnot
      · exact absurd hfit (Nat.not_le.2 hwrap)
      · exact Bool.false_ne_true (hnot.symm.trans hadm)
  obtain ⟨c, hc⟩ := Option.ne_none_iff_exists'.1 hcheck
  rw [hashCheck, if_neg (Nat.not_lt.2 hlen), hc, bufferCheck_some hc]

/-- Settles O8: each fault is its check's, and a ready HASH is its effect. -/
theorem hashWritesDigestOfMessage : Obligations.HashWritesDigestOfMessage := by
  refine fun s hm => ⟨fun hlong => ?_, fun hlen h0 hbad => ?_, fun hr => ?_⟩
  · exact exec_hash_of_fault hm (hashCheck_of_long hlong)
  · exact exec_hash_of_fault hm (hashCheck_of_bad_buffer hlen h0 hbad)
  · refine ⟨HashEngine.hidden s.hiddenCount, s.hiddenCount + 1, ?_⟩
    rw [exec_hash_of_ready hr, hashEffect_frame, hashEffect_digest]

/-- Settles O9: the digest is that of the message bytes, and HASH's frame holds the rest. -/
theorem hashDependsOnMessageOnly : Obligations.HashDependsOnMessageOnly := by
  refine ⟨fun s t hs ht hmsg => ?_, fun s s' h => ?_⟩
  · refine ⟨_, _, exec_hash_of_ready hs, exec_hash_of_ready ht, ?_⟩
    rw [hashEffect_digest, hashEffect_digest, hmsg]
  · rw [(hashFrame s s' h).1]
    exact ⟨rfl, rfl, rfl, rfl, rfl, rfl⟩

/-! ### HASH and the draws (R132) -/

theorem exec_randU64_of_run {s : State} (hm : s.mode = .run) : exec .randU64 s = .next (randU64Effect s) :=
  runCommand_effect hm (randU64Effect s)

/-- The HashEngine is HASH's alone (R32-R35). -/
theorem exec_engine {i : Instr} {s t : State} (h : exec i s = .next t) (hi : i ≠ .hash) : t.engine = s.engine := by
  rcases exec_cases h with ⟨_, rfl⟩ | ⟨_, c, rfl⟩ | ⟨rfl, _⟩ | ⟨_, _, rfl⟩ | ⟨_, _, _, rfl⟩
  · rfl
  · exact raiseFault_engine c s
  · exact absurd rfl hi
  · rfl
  · rw [randBytesEffect_eq]

/-- Settles O32: HASH leaves all that a draw depends on, and the digest and the engine are HASH's alone. -/
theorem hashAndDrawsIndependent : Obligations.HashAndDrawsIndependent := by
  refine ⟨fun s t hr h => ?_, fun s t h => ?_⟩
  · have hframe := (hashFrame s t h).1
    have hmode : t.mode = .run := ((hashFrame s t h).2.2.1 hr).2.trans hr.1
    refine ⟨by rw [hframe], _, _, exec_randU64_of_run hmode, exec_randU64_of_run hr.1, ?_⟩
    rw [hframe]
    exact ⟨rfl, rfl⟩
  · rcases h with h | h
    · exact ⟨exec_digest h nofun, exec_engine h nofun⟩
    · exact ⟨exec_digest h nofun, exec_engine h nofun⟩

end Sys2Proof.Machine
end

section
/-! PROOFS. What 41_entropy.md fixes: the fallback step, one draw, the draws in a row, and the two commands that draw (R121-R133). -/

namespace Sys2Proof.Machine

/-! ### The fallback step as a formula (R124) -/

/-- R10: a left shift is a product modulo the word's size. -/
theorem shiftLeft_eq_ofNat_mul {w : Nat} (x : BitVec w) (n : Nat) : x <<< n = BitVec.ofNat w (x.toNat * 2 ^ n) := by
  apply BitVec.eq_of_toNat_eq
  rw [BitVec.toNat_shiftLeft, BitVec.toNat_ofNat, Nat.shiftLeft_eq]

/-- R10: a logical right shift is a quotient. -/
theorem ushiftRight_eq_ofNat_div {w : Nat} (x : BitVec w) (n : Nat) : x >>> n = BitVec.ofNat w (x.toNat / 2 ^ n) := by
  rw [← Nat.shiftRight_eq_div_pow, ← BitVec.toNat_ushiftRight, BitVec.ofNat_toNat, BitVec.setWidth_eq]

/-- R124: the output's high half is `s0`, its low half `s1`. -/
theorem EntropyState.toNat_output (x : EntropyState) : x.output.toNat = x.s0.toNat * 2 ^ 32 + x.s1.toNat := by
  rw [EntropyState.output, BitVec.toNat_append, ← Nat.shiftLeft_add_eq_or_of_lt x.s1.isLt, Nat.shiftLeft_eq]

/-- Settles O22: R124's formula, with each shift read as a number. -/
theorem fallbackStepFormula : Obligations.FallbackStepFormula := by
  intro x
  simp only [← shiftLeft_eq_ofNat_mul, ← ushiftRight_eq_ofNat_div]
  exact ⟨rfl, rfl, rfl, rfl, x.next.toNat_output⟩

/-! ### The fallback step loses no state (R124, R133) -/

/-- An xorshift loses nothing: two words with one image differ by a word that the shift keeps, and enough shifts make it 0. -/
theorem injective_xor_of_iterate_eq_zero {w : Nat} {f : BitVec w → BitVec w} (hxor : ∀ x y, f (x ^^^ y) = f x ^^^ f y) {k : Nat}
    (hzero : ∀ x, f^[k] x = 0) : Function.Injective fun x => x ^^^ f x := by
  intro x y h
  have hkept : f (x ^^^ y) = x ^^^ y := by
    rw [hxor, ← BitVec.xor_eq_zero_iff]
    calc f x ^^^ f y ^^^ (x ^^^ y) = (x ^^^ f x) ^^^ (y ^^^ f y) := by ac_rfl
      _ = 0 := BitVec.xor_eq_zero_iff.2 h
  exact BitVec.xor_eq_zero_iff.1 ((Function.iterate_fixed hkept k).symm.trans (hzero _))

theorem injective_xor_shiftLeft_11 : Function.Injective fun t : Word32 => t ^^^ (t <<< 11) := by
  refine injective_xor_of_iterate_eq_zero (f := (· <<< 11)) (fun x y => BitVec.shiftLeft_xor_distrib x y 11) (k := 3) fun x => ?_
  change x <<< 11 <<< 11 <<< 11 = 0
  rw [← BitVec.shiftLeft_add, ← BitVec.shiftLeft_add]
  exact BitVec.shiftLeft_eq_zero (by decide)

theorem injective_xor_ushiftRight_8 : Function.Injective fun t : Word32 => t ^^^ (t >>> 8) := by
  refine injective_xor_of_iterate_eq_zero (f := (· >>> 8)) (fun x y => BitVec.ushiftRight_xor_distrib x y 8) (k := 4) fun x => ?_
  change x >>> 8 >>> 8 >>> 8 >>> 8 = 0
  rw [← BitVec.shiftRight_add, ← BitVec.shiftRight_add, ← BitVec.shiftRight_add]
  exact BitVec.ushiftRight_eq_zero (by decide)

/-- The old `s0`, `s1`, `s2` stand in the new state, and the old `s3` went through two xorshifts into the new `s0`. -/
theorem EntropyState.next_injective : Function.Injective EntropyState.next := by
  rintro ⟨x0, x1, x2, x3⟩ ⟨y0, y1, y2, y3⟩ h
  obtain ⟨h0, rfl, rfl, rfl⟩ := EntropyState.mk.inj h
  have hmixed := (BitVec.xor_left_inj _).1 ((BitVec.xor_left_inj _).1 h0)
  obtain rfl : x3 = y3 := injective_xor_shiftLeft_11 (injective_xor_ushiftRight_8 hmixed)
  rfl

/-- R133: the all-zero state is a fixed point of any number of steps. -/
theorem EntropyState.iterate_next_zero (n : Nat) :
    EntropyState.next^[n] { s0 := 0, s1 := 0, s2 := 0, s3 := 0 } = { s0 := 0, s1 := 0, s2 := 0, s3 := 0 } :=
  Function.iterate_fixed (by decide) n

/-- Settles O24: a state that ran into the all-zero one would have the same n-th successor as the all-zero one. -/
theorem fallbackStepIsInjective : Obligations.FallbackStepIsInjective := by
  refine ⟨EntropyState.next_injective, fun x n hx hrun => hx ?_⟩
  exact EntropyState.next_injective.iterate n (hrun.trans (EntropyState.iterate_next_zero n).symm)

/-- Settles O23: the fixed point's output is 0. -/
theorem zeroStateStaysZero : Obligations.ZeroStateStaysZero := by
  refine fun n => ⟨EntropyState.iterate_next_zero n, ?_⟩
  rw [EntropyState.iterate_next_zero]
  decide

/-! ### One draw (R121, R123, R125) -/

theorem RngAnswer.value_of_fallsBack {x : RngAnswer} (h : x.fallsBack = true) (e : EntropyState) : x.value e = e.next.output := by
  cases x with
  | unavailable => rfl
  | hardware ok v =>
    cases ok with
    | false => rfl
    | true => cases h

theorem RngAnswer.entropyAfter_of_fallsBack {x : RngAnswer} (h : x.fallsBack = true) (e : EntropyState) :
    x.entropyAfter e = e.next := if_pos h

theorem randU64Effect_of_hardware {s : State} {v : Word64} (h : nextAnswer s = .hardware true v) :
    randU64Effect s = { takeAnswer s with result := v } := by
  rw [randU64Effect, drawState, drawValue, h]
  rfl

theorem randU64Effect_of_fallsBack {s : State} (h : (nextAnswer s).fallsBack = true) :
    randU64Effect s = { takeAnswer s with result := s.entropy.next.output, entropy := s.entropy.next } := by
  rw [randU64Effect, drawState, drawValue, RngAnswer.value_of_fallsBack h, RngAnswer.entropyAfter_of_fallsBack h]

/-- Settles O21: the port's answer is the hardware's value, or it falls back for either of two reasons. -/
theorem randU64TakesOneDraw : Obligations.RandU64TakesOneDraw := by
  intro s hm
  rw [exec_randU64_of_run hm]
  refine ⟨fun v h => ?_, fun v h => ?_, fun h => ?_⟩
  · rw [randU64Effect_of_hardware h]
  · rw [randU64Effect_of_fallsBack (by rw [h]; rfl)]
  · rw [randU64Effect_of_fallsBack (by rw [h]; rfl)]

/-! ### Draws in a row (R125) -/

/-- Settles O25: the last draw adds one fallback step when it falls back, and none otherwise. -/
theorem fallbackDrawsAloneChangeEntropy : Obligations.FallbackDrawsAloneChangeEntropy := by
  intro s n
  induction n with
  | zero => rfl
  | succ n ih =>
    rw [drawMany_succ, drawState_entropy, ih, List.range_succ, List.countP_append, List.countP_singleton, RngAnswer.entropyAfter]
    by_cases hback : (nextAnswer (drawMany n s)).fallsBack = true
    · rw [if_pos hback, if_pos hback, Function.iterate_succ_apply']
    · rw [if_neg hback, if_neg hback, Nat.add_zero]

/-- While every draw falls back, EntropyState is one step on for each. -/
theorem drawMany_entropy_of_fallsBack {s : State} {n : Nat} (h : ∀ j < n, (nextAnswer (drawMany j s)).fallsBack = true) :
    (drawMany n s).entropy = EntropyState.next^[n] s.entropy := by
  have hcount := List.countP_eq_length.2 fun j hj => h j (List.mem_range.1 hj)
  rw [fallbackDrawsAloneChangeEntropy, hcount, List.length_range]

/-! ### RAND_U64s in a row (R126, R130) -/

@[simp] theorem drawMany_mode (n : Nat) (s : State) : (drawMany n s).mode = s.mode := by rw [drawMany_frame]

/-- RAND_U64 ends in a next state, in either mode. -/
theorem exec_randU64_eq_afterRandU64 (s : State) : exec .randU64 s = .next (afterRandU64 s) := by
  obtain ⟨t, h⟩ := exec_next .randU64 s
  rw [afterRandU64, h]

theorem afterRandU64_of_run {s : State} (hm : s.mode = .run) : afterRandU64 s = randU64Effect s := by
  rw [afterRandU64, exec_randU64_of_run hm]

/-- A draw does not read RESULT, so whatever RESULT was, a RAND_U64 is one draw with its value there. -/
theorem afterRandU64_with_result {s : State} (hm : s.mode = .run) (r : Word64) :
    afterRandU64 { s with result := r } = { drawState s with result := drawValue s } :=
  afterRandU64_of_run (s := { s with result := r }) hm

/-- RAND_U64s are draws, and RESULT holds the value of the last one. -/
theorem afterRandU64_iterate_succ {s : State} (hm : s.mode = .run) (n : Nat) :
    afterRandU64^[n + 1] s = { drawMany (n + 1) s with result := drawValue (drawMany n s) } := by
  induction n with
  | zero => exact afterRandU64_with_result hm s.result
  | succ n ih =>
    rw [Function.iterate_succ_apply', ih, drawMany_succ (n + 1)]
    exact afterRandU64_with_result ((drawMany_mode (n + 1) s).trans hm) _

/-- But for RESULT, any number of RAND_U64s is that number of draws. -/
theorem afterRandU64_iterate {s : State} (hm : s.mode = .run) (n : Nat) :
    ∃ r, afterRandU64^[n] s = { drawMany n s with result := r } := by
  cases n with
  | zero => exact ⟨s.result, rfl⟩
  | succ n => exact ⟨_, afterRandU64_iterate_succ hm n⟩

/-- Settles O26: the draws before the last RAND_U64 are k fallback steps, and its own is one more. -/
theorem fallbackSequenceReproducible : Obligations.FallbackSequenceReproducible := by
  intro s k hm hoff
  have hback : ∀ j < k + 1, (nextAnswer (drawMany j s)).fallsBack = true := fun j hj => by rw [hoff j (by omega)]; rfl
  have hbefore : (drawMany k s).entropy = EntropyState.next^[k] s.entropy :=
    drawMany_entropy_of_fallsBack fun j hj => hback j (by omega)
  refine ⟨afterRandU64^[k + 1] s, ?_, ?_, ?_⟩
  · rw [Function.iterate_succ_apply']
    exact exec_randU64_eq_afterRandU64 _
  · rw [afterRandU64_iterate_succ hm, Function.iterate_succ_apply', ← hbefore]
    exact RngAnswer.value_of_fallsBack (hback k (by omega)) _
  · rw [afterRandU64_iterate_succ hm]
    exact drawMany_entropy_of_fallsBack hback

/-! ### RAND_BYTES (R127, R128) -/

/-- Byte `j` of RAND_BYTES' buffer is byte `j mod 8` of the value of draw `j / 8`. -/
theorem read_randBytesEffect_buffer {s : State} (hm : s.mem.Pairwise (fun x y => x.1 < y.1)) {j : Nat} (hj : j < s.len.toNat) :
    Memory.read (randBytesEffect s).mem (s.dst.toNat + j) = byteOf (drawValue (drawMany (j / 8) s)) (j % 8) := by
  rw [read_randBytesEffect hm, if_pos (by omega), Nat.add_sub_cancel_left]

/-- Settles O30: both are the same draws, whose values go to the buffer or to RESULT. -/
theorem randBytesMatchesRandU64s : Obligations.RandBytesMatchesRandU64s := by
  intro s hr hm
  obtain ⟨r, hsame⟩ := afterRandU64_iterate hr.1 (drawCount s.len.toNat)
  refine ⟨randBytesEffect s, exec_randBytes_of_ready hr, ?_, ?_, ?_, fun j hj => ?_⟩
  · rw [← drawCount, hsame, randBytesEffect_frame]
  · rw [← drawCount, hsame, randBytesEffect_frame]
  · rw [← drawCount, hsame, randBytesEffect_frame]
  · rw [read_randBytesEffect_buffer hm hj, afterRandU64_iterate_succ hr.1]

end Sys2Proof.Machine
end

section
/-! PROOFS. What 60_exceptions.md fixes: fault entry and the causes' codes, the order of the checks, the first fault that is kept, and the
two races as the only stops (R141-R149, R151). -/

namespace Sys2Proof.Machine

/-! ### Fault entry (R141, R142) -/

/-- Settles O33: fault entry writes each cause's code beside FAULT = 1. -/
theorem faultEntryCodes : Obligations.FaultEntryCodes :=
  fun _ hm =>
    ⟨raiseFault_run hm .illegalCmd, raiseFault_run hm .badBuffer, raiseFault_run hm .hashLenRange, raiseFault_run hm .badRegAccess⟩

/-! ### Runs (R141, R157) -/

/-- Settles O7: there is nothing to serve. -/
theorem nothingPendingKeepsState : Obligations.NothingPendingKeepsState := by
  intro s hi
  rw [step, serve, hi]

/-- Settles O51, by induction on the run: each of its steps keeps the invariant. -/
theorem safeRunKeepsInvariant : Obligations.SafeRunKeepsInvariant := by
  intro n s t hs hrun
  induction hrun with
  | done s hm => exact ⟨hs, hm⟩
  | more n s s' s'' _ hstep _ ih => exact ih (stepKeepsInvariant s s' hs hstep)

/-! ### BAD_BUFFER (R58, R144) -/

/-- R58: a nonempty buffer that wraps or is not admitted is bad. -/
theorem bufferCheck_of_bad {p : Params} {b : Buffer} (h0 : b.len ≠ 0)
    (hbad : 2 ^ 64 < b.addr.toNat + b.len.toNat ∨ admits p b = false) : bufferCheck p b = some .badBuffer := by
  rw [bufferCheck, if_neg h0]
  rcases hbad with hwrap | hnot
  · exact if_pos hwrap
  · rw [hnot]
    exact ite_self _

theorem exec_randBytes_of_fault {s : State} {c : Cause} (hm : s.mode = .run) (hc : bufferCheck s.params (randBuffer s) = some c) :
    exec .randBytes s = .next { s with status := Status.ofCause c, mode := .faulted } := by
  rw [exec, execRandBytes, hc, runCommand_fault hm]

/-- R51: of a byte that both hold, either the range starts before it inside the window, or the window starts before it inside the
range. -/
theorem overlapsWindow_of_common_byte {base : Word64} {b : Buffer} {k j : Nat} (hk : k < 0x80) (hj : j < b.len.toNat)
    (h : b.addr + BitVec.ofNat 64 j = base + BitVec.ofNat 64 k) : overlapsWindow base b = true := by
  have hlen := b.len.isLt
  rw [overlapsWindow, Bool.or_eq_true, inWindow, decide_eq_true_iff, decide_eq_true_iff, Config.windowSize]
  by_cases hjk : j ≤ k
  · left
    bv_omega
  · right
    bv_omega

/-- Launch memory never overlaps the window (R51). -/
theorem admits_of_overlapsWindow {p : Params} {b : Buffer} (h : overlapsWindow p.base b = true) : admits p b = false := by
  rw [admits, h, Bool.not_true, Bool.and_false]

/-- Settles O34: the two commands with a buffer fault by its check, RAND_U64 has none, and a shared byte is an overlap. -/
theorem badBufferFaults : Obligations.BadBufferFaults := by
  refine ⟨fun s hm h0 hlen hbad => ?_, fun s hm h0 hbad => ?_, fun s hm => ?_, fun p b k j hk hj h => ?_⟩
  · exact exec_hash_of_fault hm (hashCheck_of_bad_buffer hlen h0 hbad)
  · exact exec_randBytes_of_fault hm (bufferCheck_of_bad (b := randBuffer s) h0 hbad)
  · exact ⟨_, exec_randU64_of_run hm, rfl, hm⟩
  · exact admits_of_overlapsWindow (overlapsWindow_of_common_byte hk hj h)

/-! ### The faults of a CMD write (R143-R147) -/

/-- What a step does with an undisturbed CMD write: the word is issued. -/
theorem step_of_writesCmd {s : State} {e : BusEvent} {rest : List Input} {w : Word32} (hq : Quiet s e rest)
    (hw : WritesCmd e.op w) :
    step s = issueCommand w { s with inputs := rest, sequence := sequenceAfter e, reply := .ack } := by
  obtain ⟨v, hop, rfl⟩ := hw
  have hcmd : Reg.forWrite 0x00 4 = some .cmd := Reg.forWrite_off (r := .cmd) rfl
  rw [step_of_legal hq (by rw [hop]; rfl) (by rw [hop]; rfl), hop, busOp, regWrite, hcmd]

/-- Only the three commands' own words are commands (R72, R73). -/
theorem decode_ne_ok {w : Word32} (h1 : w ≠ 1) (h2 : w ≠ 2) (h3 : w ≠ 3) (i : Instr) : decode w ≠ .ok i := by
  rw [Ne, decode_eq_ok_iff]
  cases i with
  | hash => exact h1
  | randU64 => exact h2
  | randBytes => exact h3

/-- R143: any other word raises ILLEGAL_CMD. -/
theorem issueCommand_of_illegal {w : Word32} {s : State} (hm : s.mode = .run) (hw : ∀ i, decode w ≠ .ok i) :
    issueCommand w s = .next { s with status := 0x00000011, mode := .faulted } := by
  obtain ⟨t, h⟩ := issueCommand_next w s
  rcases issueCommand_cases h with ⟨_, rfl⟩ | ⟨i, hi, _⟩
  · exact h.trans (congrArg _ (raiseFault_run hm .illegalCmd))
  · exact absurd hi (hw i)

/-- The CMD write that stands for a word writes that word (R70). -/
theorem writesCmd_cmdWrite (s : State) (w : Word32) : WritesCmd (cmdWrite s w).op w :=
  ⟨w.setWidth 64, rfl, by rw [BitVec.setWidth_setWidth_of_le w (by decide), BitVec.setWidth_eq]⟩

/-- Settles O6: the host's CMD write is undisturbed and leaves the open sequence as it is. -/
theorem illegalWordFaults : Obligations.IllegalWordFaults := by
  intro s w hm h1 h2 h3
  have hw : BitVec.ofNat 32 (w.toNat % 2 ^ 32) = w := by rw [Nat.mod_eq_of_lt w.isLt, BitVec.ofNat_toNat, BitVec.setWidth_eq]
  refine ⟨.ack, ?_⟩
  rw [State.withFetchWord, hw, step_of_writesCmd (quiet_withAccess_cmdWrite s w) (writesCmd_cmdWrite s w), sequenceAfter_cmdWrite]
  exact issueCommand_of_illegal hm (decode_ne_ok h1 h2 h3)

/-- An undisturbed CMD write of a command's word runs the command (R24, R55). -/
theorem step_of_writesCmd_command {s : State} {e : BusEvent} {rest : List Input} {i : Instr} (hq : Quiet s e rest)
    (hw : WritesCmd e.op (encode i)) :
    step s = exec i { s with inputs := rest, sequence := sequenceAfter e, reply := .ack } := by
  rw [step_of_writesCmd hq hw, issueCommand_of_decode (decode_encode i)]

/-- Settles O55: legality is looked at before the word, and each command's fault is its own check's. -/
theorem checksInPriorityOrder : Obligations.ChecksInPriorityOrder := by
  refine fun s e rest hm hi ho => ⟨illegalAccessFaults s e rest hm hi ho, fun hseq => ?_⟩
  have hq : Quiet s e rest := ⟨hi, ho, hseq⟩
  refine ⟨fun w hw h1 h2 h3 => ⟨sequenceAfter e, .ack, (step_of_writesCmd hq hw).trans ?_⟩,
    fun hw hlong => ⟨sequenceAfter e, .ack, (step_of_writesCmd_command (i := .hash) hq hw).trans ?_⟩,
    fun hw hlen h0 hbad => ⟨sequenceAfter e, .ack, (step_of_writesCmd_command (i := .hash) hq hw).trans ?_⟩,
    fun hw h0 hbad => ⟨sequenceAfter e, .ack, (step_of_writesCmd_command (i := .randBytes) hq hw).trans ?_⟩⟩
  · exact issueCommand_of_illegal (by exact hm) (decode_ne_ok h1 h2 h3)
  · exact exec_hash_of_fault (by exact hm) (hashCheck_of_long (by exact hlong))
  · exact exec_hash_of_fault (by exact hm) (hashCheck_of_bad_buffer (by exact hlen) (by exact h0) (by exact hbad))
  · exact exec_randBytes_of_fault (by exact hm) (bufferCheck_of_bad (by exact h0) (by exact hbad))

/-! ### The first fault is kept (R31, R148) -/

/-- In mode FAULTED a routed access leaves only the bus's answer, or is the host's own store. -/
theorem busOp_faulted {op : BusOp} {s t : State} (hm : s.mode = .faulted) (h : busOp op s = .next t) :
    (∃ r, t = { s with reply := r }) ∨
    ∃ a v, op = .memWrite a v ∧ t = { s with mem := Memory.write s.mem a.toNat v, reply := .ack } := by
  cases op with
  | regRead o n => exact .inl (regRead_faulted hm h)
  | regWrite o n v =>
    obtain ⟨r, hr⟩ := regWrite_faulted hm o n v
    cases hr.symm.trans h
    exact .inl ⟨r, rfl⟩
  | memRead a =>
    cases h
    exact .inl ⟨_, rfl⟩
  | memWrite a v =>
    cases h
    exact .inr ⟨a, v, rfl, rfl⟩

/-- In mode FAULTED other agents change host memory alone. -/
theorem applyOthers_faulted {s : State} (hm : s.mode = .faulted) (xs : List AgentAccess) :
    applyOthers xs s = { s with mem := xs.foldl (AgentAccess.land s.params.base) s.mem } := by
  obtain ⟨hstatus, hmode⟩ := applyOthers_keep (xs := xs) (.inr hm)
  rw [applyOthers_frame, hstatus, hmode]

/-- In mode FAULTED a bus event changes host memory, the bus's answer and the note of the open sequence alone, and host memory only by
a store of the host's own or another agent's. -/
theorem busEvent_faulted {e : BusEvent} {s t : State} (hm : s.mode = .faulted) (h : busEvent e s = .next t) :
    t = { s with mem := t.mem, reply := t.reply, sequence := t.sequence } ∧
    ((∀ a v, e.op ≠ .memWrite a v) → (∀ x ∈ e.others, x.store = none) → t.mem = s.mem) := by
  obtain ⟨_, _, t', hop, rfl⟩ := busEvent_cases h
  rcases busOp_faulted (s := accessState _ e s) hm hop with ⟨r, rfl⟩ | ⟨a, v, hroute, rfl⟩
  · rw [applyOthers_faulted (by exact hm)]
    exact ⟨rfl, fun _ hloads => foldl_land_of_loads _ hloads s.mem⟩
  · rw [applyOthers_faulted (by exact hm)]
    exact ⟨rfl, fun hno => absurd (eq_memWrite_of_route hroute) (hno a v)⟩

/-- Settles O36: nothing pending changes nothing, and a bus event changes what is listed. -/
theorem firstFaultIsKept : Obligations.FirstFaultIsKept := by
  intro s t hm hnoreset h
  rcases step_cases h with ⟨_, rfl⟩ | ⟨rest, hi, _⟩ | ⟨e, rest, hi, he⟩
  · exact ⟨rfl, fun _ _ _ _ _ => rfl⟩
  · exact absurd hi (hnoreset rest)
  · obtain ⟨hframe, hmem⟩ := busEvent_faulted (s := { s with inputs := rest }) hm he
    refine ⟨by rw [hframe], fun e' rest' hi' => ?_⟩
    cases hi.symm.trans hi'
    exact hmem

/-! ### The only stops are the two races (R149) -/

/-- No access is itself a fault: a stop of its own is a refusal (I11). -/
theorem busOp_ne_fault (op : BusOp) (s : State) (r : Fault) : busOp op s ≠ .fault r := by
  cases op with
  | regRead o n =>
    rw [busOp, regRead]
    split
    · exact nofun
    · split <;> exact nofun
    · exact nofun
  | regWrite o n v =>
    obtain ⟨t, ht⟩ := regWrite_next o n v s
    rw [busOp, ht]
    exact nofun
  | memRead a => exact nofun
  | memWrite a v => exact nofun

theorem land_ne_fault {others : List AgentAccess} {x : Host.Outcome State Fault Refusal} (h : ∀ r, x ≠ .fault r) (r : Fault) :
    land others x ≠ .fault r := by
  cases x with
  | next s => exact nofun
  | fault r' => exact absurd rfl (h r')
  | refused c => exact nofun

/-- A bus event that answers a fault interleaves with an open sequence, or, when it does not, touches the buffer of its command. -/
theorem busEvent_fault_cases {e : BusEvent} {s : State} {r : Fault} (h : busEvent e s = .fault r) :
    (otherContext (route s.params.base e.op) e s = true ∧ r = .race .interleavedSequences) ∨
    (otherContext (route s.params.base e.op) e s = false ∧ touchesBuffer (route s.params.base e.op) e.others s = true ∧
      r = .race .bufferTouched) := by
  unfold busEvent routedEvent at h
  split at h
  · rename_i hctx
    cases h
    exact .inl ⟨hctx, rfl⟩
  · rename_i hctx
    split at h
    · rename_i htouch
      cases h
      exact .inr ⟨Bool.eq_false_of_not_eq_true hctx, htouch, rfl⟩
    · exact absurd h (land_ne_fault (busOp_ne_fault _ _) r)

/-- Only a bus event can answer a fault. -/
theorem step_fault_cases {s : State} {r : Fault} (h : step s = .fault r) :
    ∃ e rest, s.inputs = .bus e :: rest ∧ busEvent e { s with inputs := rest } = .fault r := by
  simp only [step, serve] at h
  split at h
  · cases h
  · exact ⟨_, _, by assumption, h⟩
  · cases h
  · cases h

/-- Routing makes only byte accesses, so a wider register read is the host's own. -/
theorem eq_of_route_eq_regRead {base : Word64} {op : BusOp} {o : BitVec 7} {n : Nat} (h : route base op = .regRead o n)
    (hn : n ≠ 1) : op = .regRead o n := by
  cases op with
  | regRead o' n' => exact h
  | regWrite o' n' v' => cases h
  | memRead a =>
    simp only [route] at h
    split at h
    · cases h; exact absurd rfl hn
    · cases h
  | memWrite a b => simp only [route] at h; split at h <;> cases h

/-- An access that is routed to a legal register access is the host's own, since no legal one is a byte wide (R23, R51). -/
theorem legalAccess_of_route {base : Word64} {op : BusOp} (h : (route base op).legalInWindow = true) : LegalAccess op := by
  rcases BusOp.legalInWindow_iff.1 h with ⟨o, n, hop, hr⟩ | ⟨o, n, v, hop, hr⟩
  · obtain ⟨r, hr⟩ := Option.isSome_iff_exists.1 hr
    have hl : LegalRead o n := legalRead_of_forRead hr
    exact .inl ⟨o, n, eq_of_route_eq_regRead hop (by rintro rfl; exact not_legalRead_byte o hl), hl⟩
  · obtain ⟨r, hr⟩ := Option.isSome_iff_exists.1 hr
    have hl : LegalWrite o n := legalWrite_of_forWrite hr
    exact .inr ⟨o, n, v, eq_of_route_eq_regWrite hop (by rintro rfl; exact not_legalWrite_byte o hl), hl⟩

/-- R149 (a): an access that interleaves is legal, and the open sequence is another context's. -/
theorem otherContext_eq_true {op : BusOp} {e : BusEvent} {s : State} (h : otherContext op e s = true) :
    op.legalInWindow = true ∧ ∃ c, s.sequence = some c ∧ c ≠ e.ctx := by
  obtain ⟨hl, hc⟩ := Bool.and_eq_true_iff.1 h
  refine ⟨hl, ?_⟩
  split at hc
  · cases hc
  · exact ⟨_, by assumption, of_decide_eq_true hc⟩

/-- A legal access that does not interleave comes with no sequence open or with its own context's. -/
theorem sequence_of_not_otherContext {op : BusOp} {e : BusEvent} {s : State} (hl : op.legalInWindow = true)
    (h : otherContext op e s = false) : s.sequence = none ∨ s.sequence = some e.ctx := by
  rw [otherContext, hl, Bool.true_and] at h
  split at h
  · exact .inl (by assumption)
  · rename_i c hc
    exact .inr (by rw [hc, not_not.1 (of_decide_eq_false h)])

/-- A routed access that issues a command is a CMD write of its word. -/
theorem issuedBy_eq_some {op : BusOp} {i : Instr} (h : issuedBy op = some i) :
    ∃ o n v, op = .regWrite o n v ∧ Reg.forWrite o n = some .cmd ∧ v.setWidth 32 = encode i := by
  cases op with
  | regWrite o n v =>
    obtain ⟨hcmd, hdecode⟩ := Option.ite_none_right_eq_some.1 h
    refine ⟨o, n, v, rfl, hcmd, eq_encode_of_decode ?_⟩
    cases hd : decode (v.setWidth 32) with
    | ok j => rw [hd] at hdecode; cases hdecode; rfl
    | error c => rw [hd] at hdecode; cases hdecode
  | regRead o n => cases h
  | memRead a => cases h
  | memWrite a v => cases h

/-- The commands with a buffer use it when they are ready (R58, R151). -/
theorem usedBuffer_eq_some {i : Instr} {s : State} {b : Buffer} (h : usedBuffer i s = some b) :
    (i = .hash ∧ HashReady s ∧ b = hashBuffer s) ∨ (i = .randBytes ∧ FillReady s ∧ b = randBuffer s) := by
  cases hm : s.mode with
  | faulted => simp only [usedBuffer, hm] at h; cases h
  | run =>
    simp only [usedBuffer, hm] at h
    cases i with
    | hash =>
      obtain ⟨hc, hb⟩ := Option.ite_none_right_eq_some.1 h
      exact .inl ⟨rfl, (hashReady_iff s).2 ⟨hm, Option.isNone_iff_eq_none.1 hc⟩, (Option.some.inj hb).symm⟩
    | randU64 => cases h
    | randBytes =>
      obtain ⟨hc, hb⟩ := Option.ite_none_right_eq_some.1 h
      exact .inr ⟨rfl, (fillReady_iff s).2 ⟨hm, Option.isNone_iff_eq_none.1 hc⟩, (Option.some.inj hb).symm⟩

/-- R68: what touches a buffer lies in it, and is a store where the buffer is only read. -/
theorem bounds_of_touches {x : AgentAccess} {b : Buffer} (h : x.touches b = true) :
    (b.addr.toNat ≤ x.addr.toNat ∧ x.addr.toNat < b.addr.toNat + b.len.toNat) ∧ (b.kind = .read → x.store ≠ none) := by
  obtain ⟨hin, hkind⟩ := Bool.and_eq_true_iff.1 h
  refine ⟨of_decide_eq_true hin, fun hread => ?_⟩
  rw [hread] at hkind
  exact Option.isSome_iff_ne_none.1 hkind

/-- R149 (b): a race is with the buffer of the command that the access issues. -/
theorem touchesBuffer_cases {op : BusOp} {xs : List AgentAccess} {s : State} (h : touchesBuffer op xs s = true) :
    ∃ x ∈ xs, ∃ i b, issuedBy op = some i ∧ usedBuffer i s = some b ∧ x.touches b = true := by
  obtain ⟨x, hx, htouch⟩ := List.any_eq_true.1 h
  split at htouch
  · cases htouch
  · rename_i b hb
    obtain ⟨i, hi, hb⟩ := Option.bind_eq_some_iff.1 hb
    exact ⟨x, hx, i, b, hi, hb, htouch⟩

/-- Settles O56: a fault is one of the two races, each with what it says of the access. -/
theorem onlyRacesStop : Obligations.OnlyRacesStop := by
  intro s r h
  obtain ⟨e, rest, hi, he⟩ := step_fault_cases h
  refine ⟨e, rest, hi, ?_⟩
  rcases busEvent_fault_cases he with ⟨hctx, hr⟩ | ⟨hctx, htouch, hr⟩
  · obtain ⟨hl, hseq⟩ := otherContext_eq_true hctx
    exact .inl ⟨hr, hseq, legalAccess_of_route hl⟩
  · obtain ⟨x, hx, i, b, hissue, hb, ht⟩ := touchesBuffer_cases htouch
    obtain ⟨o, n, v, hroute, hcmd, hv⟩ := issuedBy_eq_some hissue
    have hl : (route s.params.base e.op).legalInWindow = true := by rw [hroute, BusOp.legalInWindow, hcmd]; rfl
    have hw : WritesCmd e.op (encode i) := ⟨v, eq_cmdWrite_of_route hroute hcmd, hv⟩
    refine .inr ⟨hr, sequence_of_not_otherContext hl hctx, x, hx, ?_⟩
    obtain ⟨hin, hst⟩ := bounds_of_touches ht
    rcases usedBuffer_eq_some hb with ⟨rfl, hready, rfl⟩ | ⟨rfl, hready, rfl⟩
    · exact .inl ⟨hready, hw, hst rfl, hin⟩
    · exact .inr ⟨hready, hw, hin⟩

end Sys2Proof.Machine
end

section
/-! PROOFS. What 70_reset_and_hazards.md fixes: the values a block reset leaves, and that nothing but fallback draws and reset writes
EntropyState (R160, R161). -/

namespace Sys2Proof.Machine

/-! ### Reset (R160) -/

/-- R160's table, for the block's own registers in any machine. -/
def HasResetValues (t : State) : Prop :=
  t.mode = .run ∧ t.status = 0 ∧ t.src = 0 ∧ t.len = 0 ∧ t.dst = 0 ∧ t.result = 0 ∧ (∀ i : Fin 8, t.digest.get i = 0) ∧
    t.entropy.s0 = t.params.seed[0] ∧ t.entropy.s1 = t.params.seed[1] ∧ t.entropy.s2 = t.params.seed[2] ∧
    t.entropy.s3 = t.params.seed[3] ∧ t.engine.phase = .idle ∧ t.entropyPhase = .ready

theorem blockReset_hasResetValues (s : State) : HasResetValues (blockReset s) :=
  ⟨rfl, rfl, rfl, rfl, rfl, rfl, Vector.get_replicate 8 0, rfl, rfl, rfl, rfl, rfl, rfl⟩

/-- The machine after reset is one whose block was just reset, before any hidden value was used up. -/
theorem reset_eq_blockReset : State.reset = blockReset { State.reset with hiddenCount := 0 } := rfl

theorem step_blockReset {s : State} {rest : List Input} (hi : s.inputs = .blockReset :: rest) :
    step s = .next (blockReset { s with inputs := rest }) := by
  rw [step, serve, hi]

/-- Settles O45: both are block resets. -/
theorem resetValues : Obligations.ResetValues := by
  refine ⟨fun s rest hi => ⟨_, step_blockReset hi, blockReset_hasResetValues _⟩, ?_⟩
  rw [reset_eq_blockReset]
  exact blockReset_hasResetValues _

/-- Settles O48: a block reset of a machine whose host memory lists no byte. -/
theorem resetMeetsInvariant : Obligations.ResetMeetsInvariant := by
  unfold Obligations.ResetMeetsInvariant
  rw [reset_eq_blockReset]
  exact blockReset_inv ⟨.nil, nofun⟩

/-! ### What writes EntropyState (R161) -/

/-- From `s` to `t` the EntropySource made `n` draws, and nothing else wrote EntropyState. -/
structure Draws (n : Nat) (s t : State) : Prop where
  entropy : t.entropy = (drawMany n s).entropy
  count   : t.draws = s.draws + n

/-- Fault entry makes no draw (R141). -/
theorem draws_zero_raiseFault (c : Cause) (s : State) : Draws 0 s (raiseFault c s) :=
  ⟨raiseFault_entropy c s, raiseFault_draws c s⟩

/-- Draws do not read what the bus keeps: the pending inputs, the open sequence and the answer. -/
theorem drawMany_with_bus_entropy (n : Nat) (s : State) (i : List Input) (q : Option Nat) (r : BusReply) :
    (drawMany n { s with inputs := i, sequence := q, reply := r }).entropy = (drawMany n s).entropy := by
  induction n generalizing s with
  | zero => rfl
  | succ n ih => exact ih (drawState s)

/-- Draws from a state are draws from one that differs in what the bus keeps. -/
theorem Draws.of_with_bus {n : Nat} {s t : State} {i : List Input} {q : Option Nat} {r : BusReply}
    (h : Draws n { s with inputs := i, sequence := q, reply := r } t) : Draws n s t :=
  ⟨h.entropy.trans (drawMany_with_bus_entropy n s i q r), h.count⟩

/-- What other agents do is no draw (R68). -/
theorem Draws.applyOthers {n : Nat} {s t : State} (h : Draws n s t) (xs : List AgentAccess) : Draws n s (applyOthers xs t) :=
  ⟨(applyOthers_entropy xs t).trans h.entropy, (applyOthers_draws xs t).trans h.count⟩

/-- RAND_BYTES draws once for each eight bytes or part of eight (R127, R128). -/
theorem draws_randBytesEffect (s : State) : Draws (drawCount s.len.toNat) s (randBytesEffect s) where
  entropy := by rw [randBytesEffect_frame]
  count := by rw [randBytesEffect_frame, drawMany_frame]

/-- A command changes EntropyState by its draws alone, and HASH makes none (R101, R125). -/
theorem exec_draws {i : Instr} {s t : State} (h : exec i s = .next t) : ∃ n, Draws n s t ∧ (i = .hash → n = 0) := by
  rcases exec_cases h with ⟨_, rfl⟩ | ⟨_, c, rfl⟩ | ⟨_, _, _, rfl⟩ | ⟨rfl, _, rfl⟩ | ⟨rfl, _, _, rfl⟩
  · exact ⟨0, ⟨rfl, rfl⟩, fun _ => rfl⟩
  · exact ⟨0, draws_zero_raiseFault c s, fun _ => rfl⟩
  · exact ⟨0, by rw [hashEffect_frame]; exact ⟨rfl, rfl⟩, fun _ => rfl⟩
  · exact ⟨1, ⟨rfl, rfl⟩, nofun⟩
  · exact ⟨_, draws_randBytesEffect s, nofun⟩

/-- A routed access changes EntropyState by its draws alone, and only a CMD write of RAND_U64's or RAND_BYTES' word makes any. -/
theorem busOp_draws {op : BusOp} {s t : State} (h : busOp op s = .next t) :
    ∃ n, Draws n s t ∧ (n ≠ 0 → ∃ o k v i, op = .regWrite o k v ∧ Reg.forWrite o k = some .cmd ∧ v.setWidth 32 = encode i ∧
      i ≠ .hash) := by
  rcases busOp_cases h with rfl | ⟨r, rfl⟩ | ⟨r, v, rfl⟩ | ⟨o, k, v, hop, hcmd, hc⟩ | ⟨a, v, _, rfl⟩
  · exact ⟨0, (draws_zero_raiseFault _ _).of_with_bus, absurd rfl⟩
  · exact ⟨0, ⟨rfl, rfl⟩, absurd rfl⟩
  · exact ⟨0, by rw [writeOperand_frame]; exact ⟨rfl, rfl⟩, absurd rfl⟩
  · rcases issueCommand_cases hc with ⟨_, rfl⟩ | ⟨i, hd, hx⟩
    · exact ⟨0, (draws_zero_raiseFault _ _).of_with_bus, absurd rfl⟩
    · obtain ⟨n, hdraws, hhash⟩ := exec_draws hx
      exact ⟨n, hdraws.of_with_bus, fun hn => ⟨o, k, v, i, hop, hcmd, eq_encode_of_decode hd, mt hhash hn⟩⟩
  · exact ⟨0, ⟨rfl, rfl⟩, absurd rfl⟩

/-- A command other than HASH is one of the two that draw, so its word is one of theirs (R72). -/
theorem writesCmd_of_ne_hash {op : BusOp} {i : Instr} (h : WritesCmd op (encode i)) (hi : i ≠ .hash) :
    WritesCmd op 0x00000002 ∨ WritesCmd op 0x00000003 := by
  cases i with
  | hash => exact absurd rfl hi
  | randU64 => exact .inl h
  | randBytes => exact .inr h

/-- A step that is no block reset changes EntropyState by its draws alone, and only a CMD write of RAND_U64's or RAND_BYTES' word makes
any. -/
theorem step_draws {s t : State} (hnoreset : ∀ rest, s.inputs ≠ .blockReset :: rest) (h : step s = .next t) :
    ∃ n, Draws n s t ∧ (n ≠ 0 → ∃ e rest, s.inputs = .bus e :: rest ∧
      (WritesCmd e.op 0x00000002 ∨ WritesCmd e.op 0x00000003)) := by
  rcases step_cases h with ⟨_, rfl⟩ | ⟨rest, hi, _⟩ | ⟨e, rest, hi, he⟩
  · exact ⟨0, ⟨rfl, rfl⟩, absurd rfl⟩
  · exact absurd hi (hnoreset rest)
  · obtain ⟨_, _, t', hop, rfl⟩ := busEvent_cases he
    obtain ⟨n, hdraws, hcmd⟩ := busOp_draws hop
    have hfrom : Draws n s t' := .of_with_bus hdraws
    refine ⟨n, hfrom.applyOthers e.others, fun hn => ⟨e, rest, hi, ?_⟩⟩
    obtain ⟨o, k, v, i, hroute, hreg, hw, hne⟩ := hcmd hn
    exact writesCmd_of_ne_hash ⟨v, eq_cmdWrite_of_route hroute hreg, hw⟩ hne

/-- Settles O44: the step's draws, of which those that fall back are one fallback step each (R125). -/
theorem onlyFallbackDrawsWriteEntropy : Obligations.OnlyFallbackDrawsWriteEntropy := by
  intro s t hnoreset h
  obtain ⟨n, ⟨hentropy, hcount⟩, hcmd⟩ := step_draws hnoreset h
  have hn : t.draws - s.draws = n := by omega
  rw [hn]
  exact ⟨by omega, hentropy.trans (fallbackDrawsAloneChangeEntropy s n), fun hne => hcmd (by omega)⟩

end Sys2Proof.Machine
end

section
/-! PROOFS. What 93_implementation_defined.md leaves to the model to refuse: a reserved cause code that a read of STATUS would show (I11). -/

namespace Sys2Proof.Machine

/-- The reserved cause codes are those above the four that a fault can raise (R142). -/
theorem causeReserved_of_lt {w : Word32} (h : 4 < (Status.cause w).toNat) : Status.causeReserved w = true := decide_eq_true h

/-- A read that names STATUS stops at a reserved cause code, where `regRead_of_forRead` answers STATUS' value (I11). -/
theorem regRead_of_reservedCause {o : BitVec 7} {n : Nat} {s : State} (h : Reg.forRead o n = some .status)
    (hc : 4 < (Status.cause s.status).toNat) : regRead o n s = .refused (.reservedCause (Status.cause s.status)) := by
  simp [regRead, h, causeReserved_of_lt hc]

/-- Settles O53: an undisturbed access is the access alone, and noting its sequence leaves STATUS as it is. -/
theorem reservedCauseRefused : Obligations.ReservedCauseRefused := by
  intro s e rest ⟨hi, ho, hseq⟩ hop hc
  have hstatus : Reg.forRead 0x04 4 = some .status := Reg.forRead_off (r := .status) rfl
  rw [step_of_quiet hi ho hseq, hop]
  exact regRead_of_reservedCause (s := accessState (.regRead 0x04 4) e { s with inputs := rest }) hstatus hc

end Sys2Proof.Machine
end
